-- ==== Sys2Proof/Word.lean ====
section
/-! DEFINITION. The word types of the core and the sizes the spec fixes (00_scope.md R5, 10_state.md R13). -/

namespace Sys2Proof

/-- One byte: a general register, a timer, a memory cell (R13). -/
abbrev Byte := BitVec 8

/-- One instruction word; also the 16 bits `I` is stored in (R16, R49). -/
abbrev Word := BitVec 16

/-- A 12-bit address: `pc`, a stack entry, `nnn`, the index of a memory cell (R17, R18, R33). -/
abbrev Addr := BitVec 12

/-- Four bits: a register number, a key code, a row count `n` (R50). -/
abbrev Nibble := BitVec 4

/-- `MEM_SIZE`: the number of memory cells (R5, R32). -/
def memSize : Nat := 4096

/-- `ROM_BASE`: where `load_rom` writes, and the entry point (R5, R39, R130). -/
def romBase : Nat := 0x200

/-- `ROM_MAX`: the longest ROM, `4096 - 0x200` bytes (R5, R43). -/
def romMax : Nat := 3584

/-- `FB_H`: the rows of the framebuffer (R5, R20). -/
def fbHeight : Nat := 32

/-- `FB_W`: the columns of the framebuffer (R5, R20). -/
def fbWidth : Nat := 64

/-- `FONT_BYTES`: 16 glyphs of 5 bytes (R5, R41). -/
def fontBytes : Nat := 80

/-- `TIMER_HZ`: timer ticks in one second of virtual time (R5). -/
def timerHz : Nat := 60

/-- `VF`, the flag register `V[15]` (R10, R15). -/
abbrev regF : Nibble := 15

end Sys2Proof
end

