-- ==== Sys2Proof/Syntax.lean ====
section
/-! DEFINITION. The instructions: one constructor per row of spec/opcode_table.json (30_encoding.md R54). The
fields have the widths of R50, so every operand a word can hold is an operand here and no other is. -/

namespace Sys2Proof

/-- The 35 instructions, in the order of R54's table. `x` and `y` name general registers, `nn`, `nnn` and `n` are
unsigned immediates (R51). -/
inductive Instr where
  /-- `CLS` -/
  | cls
  /-- `RET` -/
  | ret
  /-- `SYS nnn` -/
  | sys (nnn : Addr)
  /-- `JP nnn` -/
  | jp (nnn : Addr)
  /-- `CALL nnn` -/
  | call (nnn : Addr)
  /-- `SE Vx, nn` -/
  | seImm (x : Nibble) (nn : Byte)
  /-- `SNE Vx, nn` -/
  | sneImm (x : Nibble) (nn : Byte)
  /-- `SE Vx, Vy` -/
  | seReg (x y : Nibble)
  /-- `LD Vx, nn` -/
  | ldImm (x : Nibble) (nn : Byte)
  /-- `ADD Vx, nn` -/
  | addImm (x : Nibble) (nn : Byte)
  /-- `LD Vx, Vy` -/
  | ldReg (x y : Nibble)
  /-- `OR Vx, Vy` -/
  | orReg (x y : Nibble)
  /-- `AND Vx, Vy` -/
  | andReg (x y : Nibble)
  /-- `XOR Vx, Vy` -/
  | xorReg (x y : Nibble)
  /-- `ADD Vx, Vy` -/
  | addReg (x y : Nibble)
  /-- `SUB Vx, Vy` -/
  | subReg (x y : Nibble)
  /-- `SHR Vx, Vy` -/
  | shr (x y : Nibble)
  /-- `SUBN Vx, Vy` -/
  | subn (x y : Nibble)
  /-- `SHL Vx, Vy` -/
  | shl (x y : Nibble)
  /-- `SNE Vx, Vy` -/
  | sneReg (x y : Nibble)
  /-- `LD I, nnn` -/
  | ldI (nnn : Addr)
  /-- `JP V0, nnn` -/
  | jpV0 (nnn : Addr)
  /-- `RND Vx, nn` -/
  | rnd (x : Nibble) (nn : Byte)
  /-- `DRW Vx, Vy, n` -/
  | drw (x y n : Nibble)
  /-- `SKP Vx` -/
  | skp (x : Nibble)
  /-- `SKNP Vx` -/
  | sknp (x : Nibble)
  /-- `LD Vx, DT` -/
  | ldVxDt (x : Nibble)
  /-- `LD Vx, K` -/
  | ldVxK (x : Nibble)
  /-- `LD DT, Vx` -/
  | ldDtVx (x : Nibble)
  /-- `LD ST, Vx` -/
  | ldStVx (x : Nibble)
  /-- `ADD I, Vx` -/
  | addI (x : Nibble)
  /-- `LD F, Vx` -/
  | ldF (x : Nibble)
  /-- `LD B, Vx` -/
  | ldB (x : Nibble)
  /-- `LD [I], Vx` -/
  | stRegs (x : Nibble)
  /-- `LD Vx, [I]` -/
  | ldRegs (x : Nibble)
  deriving DecidableEq, Repr

end Sys2Proof
end

