-- ==== Sys2Proof/Config.lean ====
section
/-! DEFINITION. What one core instance fixes: the parameters of 00_scope.md R5, their legal values, and the
model's one free value, the byte RND draws (R9). The reference values stand in Machine/Profile.lean. -/

namespace Sys2Proof

/-- `QUIRK_SHIFT_SOURCE`: which register SHR and SHL shift (R5, R84, R86). -/
inductive ShiftSource where
  | vx
  | vy
  deriving DecidableEq, Repr

/-- `FLAG_ORDER`: which of the two writes of a flag instruction lands last (R5, R76). -/
inductive FlagOrder where
  | flagLast
  | flagFirst
  deriving DecidableEq, Repr

/-- The parameters of R5 that have more than one legal value, fixed for the life of an instance (R6). -/
structure Config where
  /-- `QUIRK_SHIFT_SOURCE` -/
  shiftSource : ShiftSource
  /-- `QUIRK_INCREMENT_I`: Fx55 and Fx65 move `I` (R106, R107). -/
  incrementI : Bool
  /-- `QUIRK_DRAW_WRAP`: sprites wrap at the edges instead of being clipped (R91). -/
  drawWrap : Bool
  /-- `QUIRK_ADD_I_VF`: Fx1E writes `VF` (R103). -/
  addIVf : Bool
  /-- `FLAG_ORDER` -/
  flagOrder : FlagOrder
  /-- `STACK_DEPTH` (R18). -/
  stackDepth : Nat
  /-- `FONT_BASE` (R41). -/
  fontBase : Nat
  /-- `FONT_GLYPHS`: 16 glyphs of 5 bytes (R41). -/
  fontGlyphs : Vector (Vector Byte 5) 16
  /-- `CPU_HZ` (R119). -/
  cpuHz : Nat
  /-- `FRAME_HZ` (R119). -/
  frameHz : Nat
  /-- `TIME_Q`: the units of `elapsed` in one second (R119). -/
  timeQ : Nat
  deriving DecidableEq, Repr

/-- The legal values of the parameters (the second column of R5's table). -/
abbrev Config.Legal (c : Config) : Prop :=
  12 ≤ c.stackDepth ∧ c.stackDepth ≤ 16 ∧ c.fontBase + fontBytes ≤ romBase ∧
    0 < c.cpuHz ∧ 0 < c.frameHz ∧ 0 < c.timeQ

/-- FREE VALUE (log entry 2). The byte `rnd` that comes with the `k`-th executed `cpu_step` when the host names
none: an unconstrained draw, every byte value possible at every step (R9, R88). It has no body. -/
opaque Config.draw : Nat → Byte

end Sys2Proof
end

