-- ==== Sys2Proof/Machine/Profile.lean ====
section
/-! DEFINITION. The reference profile and the other default values of 00_scope.md R5, with the default glyphs of
20_memory.md R41. -/

namespace Sys2Proof.Machine

/-- `FONT_GLYPHS`' default: the glyphs of the digits 0 to F, five bytes each, top row first (R41). -/
def fontTable : Vector (Vector Byte 5) 16 :=
  #v[#v[0xF0, 0x90, 0x90, 0x90, 0xF0], #v[0x20, 0x60, 0x20, 0x20, 0x70],
    #v[0xF0, 0x10, 0xF0, 0x80, 0xF0], #v[0xF0, 0x10, 0xF0, 0x10, 0xF0],
    #v[0x90, 0x90, 0xF0, 0x10, 0x10], #v[0xF0, 0x80, 0xF0, 0x10, 0xF0],
    #v[0xF0, 0x80, 0xF0, 0x90, 0xF0], #v[0xF0, 0x10, 0x20, 0x40, 0x40],
    #v[0xF0, 0x90, 0xF0, 0x90, 0xF0], #v[0xF0, 0x90, 0xF0, 0x10, 0xF0],
    #v[0xF0, 0x90, 0xF0, 0x90, 0x90], #v[0xE0, 0x90, 0xE0, 0x90, 0xE0],
    #v[0xF0, 0x80, 0x80, 0x80, 0xF0], #v[0xE0, 0x90, 0x90, 0x90, 0xE0],
    #v[0xF0, 0x80, 0xF0, 0x80, 0xF0], #v[0xF0, 0x80, 0xF0, 0x80, 0x80]]

/-- Every parameter at R5's default. -/
def referenceProfile : Config where
  shiftSource := .vx
  incrementI := false
  drawWrap := false
  addIVf := false
  flagOrder := .flagLast
  stackDepth := 16
  fontBase := 0x050
  fontGlyphs := fontTable
  cpuHz := 500
  frameHz := 60
  timeQ := 1000000000

end Sys2Proof.Machine
end

