-- ==== Sys2Proof/Machine/State.lean ====
section
/-! DEFINITION. The state of the core (10_state.md R13), the commands of its interface (00_scope.md R8), the
reasons a step could stop, and the state after reset (R29). -/

namespace Sys2Proof.Machine

/-- The state of the sequencer (R23). -/
inductive Fsm where
  | load
  | run
  | waitKey
  | halt
  deriving DecidableEq, Repr

/-- The kind of a fatal error (60_exceptions.md R108). -/
inductive FaultKind where
  | none
  | loadError
  | illegalInstruction
  | stackOverflow
  | stackUnderflow
  /-- Code 5 is reserved: nothing raises it (R33, R108). -/
  | addressRangeViolation
  | misalignedPc
  deriving DecidableEq, Repr

/-- The fault record (R25). -/
structure FaultRecord where
  kind : FaultKind
  opcode : Word
  addr : Addr
  deriving DecidableEq, Repr

/-- The record of no fault, `(0, 0, 0)` (R29). -/
def FaultRecord.empty : FaultRecord := ⟨.none, 0, 0⟩

/-- The commands of the interface (R8). Each is one atomic transition of the whole state. -/
inductive Command where
  | reset
  | loadRom (data : List Byte)
  | setKey (code : Nibble) (down : Bool)
  | clockAdvance (elapsed : Nat)
  | cpuStep (rnd : Byte)
  | timerTick
  | takeDirty
  | framebuffer
  | soundActive
  | status
  | dump
  deriving DecidableEq, Repr

/-- Memory: the cells that differ from what they hold after reset, by rising address (`Memory.wf`). -/
abbrev Memory := List Host.Cell

/-- The framebuffer: 32 rows of 64 pixels (R20). -/
abbrev Framebuffer := Vector (Vector Bool 64) 32

/-- A place in the framebuffer: row, then column (R20). -/
abbrev Pixel := Fin 32 × Fin 64

/-- The state. The fields down to `accFrame` are R13's; `cfg` holds the parameters of R5; `rnd`, `draws` and `inbox`
are the model's own (log entries 2 and 3). -/
structure State where
  /-- `V[0..15]` (R14) -/
  regs : Vector Byte 16
  /-- `I`, stored in 16 bits, below 4096 (R16) -/
  i : Word
  /-- `pc` (R17) -/
  pc : Addr
  /-- `stack[0..STACK_DEPTH-1]` (R18) -/
  stack : List Addr
  /-- the number of stack entries in use (R18) -/
  sp : Nat
  /-- the delay timer (R19) -/
  dt : Byte
  /-- the sound timer (R19) -/
  st : Byte
  /-- `mem[0..4095]` (R32) -/
  mem : Memory
  /-- `fb[row][col]` (R20) -/
  fb : Framebuffer
  /-- `dirty` (R21) -/
  dirty : Bool
  /-- `keypad[0..15]` (R22) -/
  keypad : Vector Bool 16
  /-- `fsm` (R23) -/
  fsm : Fsm
  /-- `wait_target` (R24) -/
  waitTarget : Nibble
  /-- the fault record (R25) -/
  fault : FaultRecord
  /-- `acc_cpu` (R26) -/
  accCpu : Nat
  /-- `acc_timer` (R26) -/
  accTimer : Nat
  /-- `acc_frame` (R26) -/
  accFrame : Nat
  /-- the parameters of the instance (R5, R6; log entry 1) -/
  cfg : Config
  /-- the `rnd` argument of the `cpu_step` in progress (R9; log entry 2) -/
  rnd : Byte
  /-- how many `cpu_step`s have executed: which draw comes next (log entry 2) -/
  draws : Nat
  /-- the host's commands not yet taken, oldest first (R8, R124; log entry 3) -/
  inbox : List Command
  deriving DecidableEq, Repr

/-- Why a step could stop with no next state. -/
inductive Fault where
  /-- Raised by nothing: every address is reduced to 12 bits and every cell exists (R33, R48), and the spec's own fatal
  errors are next states, with `fsm` at `HALT` (R109). Safe, since it is never raised. -/
  | addressRangeViolation
  deriving DecidableEq, Repr

/-- Why an instruction could have no meaning. -/
inductive Refusal where
  /-- Raised by an arm of `exec` whose instruction has no meaning yet; none is left. Safe: a stop. -/
  | notModelled (mnemonic : String)
  deriving DecidableEq, Repr

/-- The state `reset()` gives an instance with the parameters `c` (R29, R129). -/
def State.resetWith (c : Config) : State where
  regs := Vector.replicate 16 0
  i := 0
  pc := 0x200
  stack := List.replicate c.stackDepth 0
  sp := 0
  dt := 0
  st := 0
  mem := []
  fb := Vector.replicate 32 (Vector.replicate 64 false)
  dirty := false
  keypad := Vector.replicate 16 false
  fsm := .load
  waitTarget := 0
  fault := FaultRecord.empty
  accCpu := 0
  accTimer := 0
  accFrame := 0
  cfg := c
  rnd := 0
  draws := 0
  inbox := []

/-- The machine right after reset, in the reference profile (R5, R29). -/
def State.reset : State := State.resetWith referenceProfile

end Sys2Proof.Machine
end

