-- ==== Sys2Proof/Machine/Ops.lean ====
section
/-! DEFINITION. The named operations over memory, registers, stack, display and keypad, the fetch, taking a fault,
and the codes of the status fields. There is no return from a fault: only the reset command leaves `HALT` (R111). -/

namespace Sys2Proof.Machine

/-! ## Addresses -/

/-- `A(e) = e mod 4096` (20_memory.md R33). -/
def maskAddr (e : Nat) : Addr := BitVec.ofNat 12 e

/-- The value `I` takes when `e` is written to it: reduced modulo 4096, held in 16 bits (R16, R33). -/
def maskIndex (e : Nat) : Word := BitVec.ofNat 16 (e % 4096)

/-! ## Memory -/

/-- What a cell holds after reset: byte `k % 5` of glyph `k / 5` at `FONT_BASE + k`, and 0 elsewhere
(R29, R39, R41). It is what an unlisted address reads as. -/
def Memory.initial (c : Config) (a : Nat) : Byte :=
  if h : c.fontBase ≤ a ∧ a < c.fontBase + 80 then
    (c.fontGlyphs[(a - c.fontBase) / 5]'(by omega))[(a - c.fontBase) % 5]'(by omega)
  else 0

/-- The byte at address `a`. -/
def Memory.read (c : Config) : Memory → Nat → Byte
  | [], a => Memory.initial c a
  | (k, b) :: rest, a => if k = a then b else Memory.read c rest a

/-- The cells but the one at address `a`. -/
def Memory.erase : Memory → Nat → Memory
  | [], _ => []
  | (k, b) :: rest, a => if k = a then Memory.erase rest a else (k, b) :: Memory.erase rest a

/-- The cells with one more, before the first of a higher address. -/
def Memory.insert : Memory → Nat → Byte → Memory
  | [], a, v => [(a, v)]
  | (k, b) :: rest, a, v => if a < k then (a, v) :: (k, b) :: rest else (k, b) :: Memory.insert rest a v

/-- Storing `v` at address `a`: a cell that holds its initial byte is not listed. -/
def Memory.write (c : Config) (m : Memory) (a : Nat) (v : Byte) : Memory :=
  if v = Memory.initial c a then m.erase a else (m.erase a).insert a v

/-- The canonical form: addresses below 4096 and strictly rising, no cell at its initial byte. -/
abbrev Memory.wf (c : Config) (m : Memory) : Prop :=
  (m.map Prod.fst).Pairwise (· < ·) ∧ ∀ e ∈ m, e.1 < memSize ∧ e.2 ≠ Memory.initial c e.1

/-- `MemRead(a, 1)` (R10). -/
def State.readByte (s : State) (a : Addr) : Byte := Memory.read s.cfg s.mem a.toNat

/-- `MemWrite(a, 1, v)` (R10). -/
def State.writeByte (s : State) (a : Addr) (v : Byte) : State :=
  { s with mem := Memory.write s.cfg s.mem a.toNat v }

/-- The addresses `A(e)`, `A(e + 1)`, ... of `n` bytes in a row (R33). -/
def blockAddrs (e : Nat) (n : Nat) : List Addr := (List.range n).map fun k => maskAddr (e + k)

/-- The `n` bytes from `A(e)` on. -/
def State.readBytes (s : State) (e n : Nat) : List Byte := (blockAddrs e n).map s.readByte

/-- Storing bytes at `A(e)`, `A(e + 1)`, ..., in this order. -/
def State.writeBytes (s : State) (e : Nat) : List Byte → State
  | [] => s
  | b :: bs => (s.writeByte (maskAddr e) b).writeBytes (e + 1) bs

/-- The word at address `a`, the first byte the high byte (R34, R35). -/
def State.wordAt (s : State) (a : Addr) : Word :=
  wordOfBytes (s.readByte a) (s.readByte (maskAddr (a.toNat + 1)))

/-- The word the next step fetches (R35). -/
def State.fetchWord (s : State) : Word := s.wordAt s.pc

/-! ## Registers -/

/-- `V[r]` (R14). -/
def State.reg (s : State) (r : Nibble) : Byte := s.regs[r.toNat]'r.isLt

/-- `V[r] <- b`. -/
def State.setReg (s : State) (r : Nibble) (b : Byte) : State :=
  { s with regs := s.regs.set r.toNat b r.isLt }

/-- `V[k] <- b` for the bytes in order, `k` rising. -/
def State.setRegs (s : State) (k : Nat) : List Byte → State
  | [] => s
  | b :: bs => (s.setReg (BitVec.ofNat 4 k) b).setRegs (k + 1) bs

/-- `I <- e`, reduced (R33). -/
def State.setI (s : State) (e : Nat) : State := { s with i := maskIndex e }

/-- `pc <- a`. -/
def State.setPc (s : State) (a : Addr) : State := { s with pc := a }

/-- `DT <- b`. -/
def State.setDt (s : State) (b : Byte) : State := { s with dt := b }

/-- `ST <- b`. -/
def State.setSt (s : State) (b : Byte) : State := { s with st := b }

/-! ## The next instruction (R61) -/

/-- `npc = A(pc + 2)`. -/
def State.npc (s : State) : Addr := maskAddr (s.pc.toNat + 2)

/-- `A(pc + 4)`, where a skip goes. -/
def State.skipPc (s : State) : Addr := maskAddr (s.pc.toNat + 4)

/-- `pc <- npc`. -/
def State.advance (s : State) : State := s.setPc s.npc

/-- `pc <- A(pc + 4)` if `c`, else `pc <- npc`. -/
def State.skipIf (s : State) (c : Bool) : State := if c then s.setPc s.skipPc else s.advance

/-! ## The call stack (R18) -/

/-- `stack[k]`. -/
def State.stackAt (s : State) (k : Nat) : Addr := s.stack.getD k 0

/-- `stack[sp] <- a ; sp <- sp + 1`. -/
def State.push (s : State) (a : Addr) : State := { s with stack := s.stack.set s.sp a, sp := s.sp + 1 }

/-- `sp <- sp - 1`; the entry is left in place (R65). -/
def State.pop (s : State) : State := { s with sp := s.sp - 1 }

/-! ## Display and keypad -/

/-- `fb[row][col]`. -/
def Framebuffer.get (fb : Framebuffer) (p : Pixel) : Bool := (fb[p.1.val])[p.2.val]

/-- `fb[row][col] <- fb[row][col] ^ 1`. -/
def Framebuffer.toggle (fb : Framebuffer) (p : Pixel) : Framebuffer :=
  fb.set p.1.val ((fb[p.1.val]).set p.2.val (!(fb[p.1.val])[p.2.val]))

/-- The framebuffer with every pixel 0. -/
def Framebuffer.clear : Framebuffer := Vector.replicate 32 (Vector.replicate 64 false)

/-- A new framebuffer; `dirty <- 1` (R21). -/
def State.setFb (s : State) (fb : Framebuffer) : State := { s with fb := fb, dirty := true }

/-- `keypad[k]` (R22). -/
def State.key (s : State) (k : Nibble) : Bool := s.keypad[k.toNat]'k.isLt

/-- `keypad[k] <- down`. -/
def State.setKeyBit (s : State) (k : Nibble) (down : Bool) : State :=
  { s with keypad := s.keypad.set k.toNat down k.isLt }

/-- The WaitLatch is set for register `x` (R23, R97). -/
def State.beginWait (s : State) (x : Nibble) : State := { s with waitTarget := x, fsm := .waitKey }

/-- The WaitLatch is cleared with the key's code in `V[wait_target]` (47_input.md R98). -/
def State.endWait (s : State) (code : Nibble) : State :=
  { s.setReg s.waitTarget (code.setWidth 8) with fsm := .run }

/-! ## Faults -/

/-- Taking a fault: the record and `fsm`, nothing else; `pc` stays (60_exceptions.md R109). -/
def State.takeFault (s : State) (k : FaultKind) (opcode : Word) (addr : Addr) : State :=
  { s with fault := ⟨k, opcode, addr⟩, fsm := .halt }

/-- `raise k(w, pc)` by the instruction `i`, whose word is its encoding (R10, log entry 6). -/
def State.raise (s : State) (k : FaultKind) (i : Instr) : State := s.takeFault k (encode i) s.pc

/-! ## Codes -/

/-- The 2-bit code of `fsm` (R23). -/
def Fsm.code : Fsm → BitVec 2
  | .load => 0
  | .run => 1
  | .waitKey => 2
  | .halt => 3

/-- The 3-bit code of a fault's kind (R108). -/
def FaultKind.code : FaultKind → BitVec 3
  | .none => 0
  | .loadError => 1
  | .illegalInstruction => 2
  | .stackOverflow => 3
  | .stackUnderflow => 4
  | .addressRangeViolation => 5
  | .misalignedPc => 6

end Sys2Proof.Machine
end

