-- ==== Sys2Proof/Machine/Flags.lean ====
section
/-! DEFINITION. The results and flags of the ALU, computed exactly on naturals and then reduced (43_alu.md R75),
and the two writes of a flag instruction in the order of `FLAG_ORDER` (R76). -/

namespace Sys2Proof.Machine

/-- What a flag instruction computes: the result `r` and the flag `f`. -/
structure AluOut where
  result : Byte
  flag : Bool
  deriving DecidableEq, Repr

/-- A flag as `VF` holds it. -/
def flagByte (f : Bool) : Byte := if f then 1 else 0

/-- ADD: the flag is the carry (R82). -/
def aluAdd (a b : Byte) : AluOut where
  result := BitVec.ofNat 8 ((a.toNat + b.toNat) % 256)
  flag := decide (a.toNat + b.toNat > 255)

/-- SUB, and SUBN with the operands swapped: the flag is not-borrow (R83, R85). -/
def aluSub (a b : Byte) : AluOut where
  result := BitVec.ofNat 8 ((a.toNat + 256 - b.toNat) % 256)
  flag := decide (a.toNat ≥ b.toNat)

/-- SHR: the flag is bit 0 of the source (R84). -/
def aluShr (v : Byte) : AluOut where
  result := v >>> 1
  flag := v.getLsbD 0

/-- SHL: the flag is bit 7 of the source (R86). -/
def aluShl (v : Byte) : AluOut where
  result := BitVec.ofNat 8 (v.toNat * 2 % 256)
  flag := v.getLsbD 7

/-- `write_rf(x, r, f)` (R76). -/
def State.writeFlagged (s : State) (x : Nibble) (o : AluOut) : State :=
  match s.cfg.flagOrder with
  | .flagLast => (s.setReg x o.result).setReg regF (flagByte o.flag)
  | .flagFirst => (s.setReg regF (flagByte o.flag)).setReg x o.result

/-- The sum of ADD I passed 0xFFF (49_index_memory.md R103). -/
def indexCarry (i : Word) (v : Byte) : Bool := decide (i.toNat + v.toNat > 0xFFF)

/-- `VF <- f` under `QUIRK_ADD_I_VF` (R103). -/
def State.writeIndexFlag (s : State) (f : Bool) : State :=
  if s.cfg.addIVf then s.setReg regF (flagByte f) else s

end Sys2Proof.Machine
end

