-- ==== Sys2Proof/Machine/Operands.lean ====
section
/-! DEFINITION. The operand forms: what an instruction computes from its operands before it writes. -/

namespace Sys2Proof.Machine

/-- The source of SHR and SHL under `QUIRK_SHIFT_SOURCE` (43_alu.md R84, R86). -/
def State.shiftOperand (s : State) (x y : Nibble) : Byte :=
  match s.cfg.shiftSource with
  | .vx => s.reg x
  | .vy => s.reg y

/-- The key a register names: its low four bits (47_input.md R96). -/
def keyIndex (v : Byte) : Nibble := (v &&& 0x0F#8).setWidth 4

/-- The target of `JP V0, nnn` (44_jump_add.md R87). -/
def State.jumpOffsetTarget (s : State) (nnn : Addr) : Addr := maskAddr (nnn.toNat + (s.reg 0).toNat)

/-- A control transfer's target is odd (20_memory.md R36). -/
def isOdd (a : Addr) : Bool := a.toNat % 2 == 1

/-- The address of the glyph of `v` (49_index_memory.md R104). -/
def glyphAddr (c : Config) (v : Byte) : Nat := c.fontBase + 5 * v.toNat

/-- The hundreds, tens and ones of a byte (49_index_memory.md R105). -/
def bcdDigits (v : Byte) : List Byte :=
  [BitVec.ofNat 8 (v.toNat / 100), BitVec.ofNat 8 (v.toNat / 10 % 10), BitVec.ofNat 8 (v.toNat % 10)]

/-- The number of registers `V[0..x]` (49_index_memory.md R106, R107). -/
def blockLength (x : Nibble) : Nat := x.toNat + 1

/-- `V[0], ..., V[x]`. -/
def State.regsUpTo (s : State) (x : Nibble) : List Byte :=
  (List.range (blockLength x)).map fun k => s.reg (BitVec.ofNat 4 k)

/-- `I <- A(I + x + 1)` under `QUIRK_INCREMENT_I` (49_index_memory.md R106, R107). -/
def State.stepIndex (s : State) (x : Nibble) : State :=
  if s.cfg.incrementI then s.setI (s.i.toNat + blockLength x) else s

end Sys2Proof.Machine
end

