-- ==== Sys2Proof/Machine/Alu.lean ====
section
/-! DEFINITION. The register ALU instructions, family 8 (43_alu.md). -/

namespace Sys2Proof.Machine

/-- `LD Vx, Vy` (R78). -/
def execLdReg (x y : Nibble) (s : State) : Host.Outcome State Fault Refusal :=
  .next (s.setReg x (s.reg y)).advance

/-- `OR Vx, Vy` (R79): no flag (R77). -/
def execOrReg (x y : Nibble) (s : State) : Host.Outcome State Fault Refusal :=
  .next (s.setReg x (s.reg x ||| s.reg y)).advance

/-- `AND Vx, Vy` (R80): no flag (R77). -/
def execAndReg (x y : Nibble) (s : State) : Host.Outcome State Fault Refusal :=
  .next (s.setReg x (s.reg x &&& s.reg y)).advance

/-- `XOR Vx, Vy` (R81): no flag (R77). -/
def execXorReg (x y : Nibble) (s : State) : Host.Outcome State Fault Refusal :=
  .next (s.setReg x (s.reg x ^^^ s.reg y)).advance

/-- `ADD Vx, Vy` (R82). -/
def execAddReg (x y : Nibble) (s : State) : Host.Outcome State Fault Refusal :=
  .next (s.writeFlagged x (aluAdd (s.reg x) (s.reg y))).advance

/-- `SUB Vx, Vy` (R83). -/
def execSubReg (x y : Nibble) (s : State) : Host.Outcome State Fault Refusal :=
  .next (s.writeFlagged x (aluSub (s.reg x) (s.reg y))).advance

/-- `SHR Vx, Vy` (R84). -/
def execShr (x y : Nibble) (s : State) : Host.Outcome State Fault Refusal :=
  .next (s.writeFlagged x (aluShr (s.shiftOperand x y))).advance

/-- `SUBN Vx, Vy` (R85): SUB with the operands swapped. -/
def execSubn (x y : Nibble) (s : State) : Host.Outcome State Fault Refusal :=
  .next (s.writeFlagged x (aluSub (s.reg y) (s.reg x))).advance

/-- `SHL Vx, Vy` (R86). -/
def execShl (x y : Nibble) (s : State) : Host.Outcome State Fault Refusal :=
  .next (s.writeFlagged x (aluShl (s.shiftOperand x y))).advance

end Sys2Proof.Machine
end

