-- ==== Sys2Proof/Machine/Control.lean ====
section
/-! DEFINITION. CLS, RET, SYS, JP, CALL (40_control.md) and JP V0 (44_jump_add.md). -/

namespace Sys2Proof.Machine

/-- `CLS` (R64): `dirty` is set even when the display was clear. -/
def execCls (s : State) : Host.Outcome State Fault Refusal :=
  .next (s.setFb Framebuffer.clear).advance

/-- `RET` (R65). -/
def execRet (s : State) : Host.Outcome State Fault Refusal :=
  .next (if s.sp = 0 then s.raise .stackUnderflow .ret else s.pop.setPc (s.stackAt (s.sp - 1)))

/-- `SYS nnn` (R68): its whole effect is the fault. -/
def execSys (nnn : Addr) (s : State) : Host.Outcome State Fault Refusal :=
  .next (s.raise .illegalInstruction (.sys nnn))

/-- `JP nnn` (R66). -/
def execJp (nnn : Addr) (s : State) : Host.Outcome State Fault Refusal :=
  .next (if isOdd nnn then s.raise .misalignedPc (.jp nnn) else s.setPc nnn)

/-- `CALL nnn` (R67): an odd target is reported before a full stack (R112). The test is `≤`, which is R67's `=` in
every state with `sp` in its range (log entry 9). -/
def execCall (nnn : Addr) (s : State) : Host.Outcome State Fault Refusal :=
  .next (
    if isOdd nnn then s.raise .misalignedPc (.call nnn)
    else if s.cfg.stackDepth ≤ s.sp then s.raise .stackOverflow (.call nnn)
    else (s.push s.npc).setPc nnn)

/-- `JP V0, nnn` (R87). -/
def execJpV0 (nnn : Addr) (s : State) : Host.Outcome State Fault Refusal :=
  .next (
    if isOdd (s.jumpOffsetTarget nnn) then s.raise .misalignedPc (.jpV0 nnn)
    else s.setPc (s.jumpOffsetTarget nnn))

end Sys2Proof.Machine
end

