-- ==== Sys2Proof/Machine/Draw.lean ====
section
/-! DEFINITION. The sprite engine and DRW (46_draw.md). -/

namespace Sys2Proof.Machine

/-- Where a pixel at column `px` and row `py` lands: wrapped, kept, or clipped (R91). -/
def placePixel (wrap : Bool) (px py : Nat) : Option Pixel :=
  if wrap then some (Fin.ofNat 32 py, Fin.ofNat 64 px)
  else if h : px < 64 ∧ py < 32 then some (⟨py, h.2⟩, ⟨px, h.1⟩)
  else none

/-- The pixels the 1-bits of a sprite byte are drawn at, from column `ox` on in row `py`, bit 7 first (R90). -/
def rowPixels (wrap : Bool) (ox py : Nat) (b : Byte) : List Pixel :=
  (List.range 8).filterMap fun c => if b.getLsbD (7 - c) then placePixel wrap (ox + c) py else none

/-- The pixels a sprite is drawn at, in the order of R89's loops, its first byte in row `oy`. -/
def spritePixels (wrap : Bool) (ox oy : Nat) : List Byte → List Pixel
  | [] => []
  | b :: bs => rowPixels wrap ox oy b ++ spritePixels wrap ox (oy + 1) bs

/-- Drawing pixels in turn: each is toggled, and one that was 1 is a hit (R89, R92). -/
def drawPixels (fb : Framebuffer) : List Pixel → Framebuffer × Bool
  | [] => (fb, false)
  | p :: ps =>
    let rest := drawPixels (fb.toggle p) ps
    (rest.1, fb.get p || rest.2)

/-- The pixels `DRW Vx, Vy, n` draws: the origin is `(Vx mod 64, Vy mod 32)`, the bytes are at `A(I + r)` (R89). -/
def State.drawList (s : State) (x y n : Nibble) : List Pixel :=
  spritePixels s.cfg.drawWrap ((s.reg x).toNat % 64) ((s.reg y).toNat % 32) (s.readBytes s.i.toNat n.toNat)

/-- `DRW Vx, Vy, n` (R89): the operands are read before `VF` is written; `VF` and `dirty` are written for every `n`. -/
def execDrw (x y n : Nibble) (s : State) : Host.Outcome State Fault Refusal :=
  let d := drawPixels s.fb (s.drawList x y n)
  .next ((s.setFb d.1).setReg regF (flagByte d.2)).advance

end Sys2Proof.Machine
end

