-- ==== Sys2Proof/Machine/Index.lean ====
section
/-! DEFINITION. The index register and the memory instructions (49_index_memory.md). -/

namespace Sys2Proof.Machine

/-- `LD I, nnn` (R102). -/
def execLdI (nnn : Addr) (s : State) : Host.Outcome State Fault Refusal :=
  .next (s.setI nnn.toNat).advance

/-- `ADD I, Vx` (R103): the flag is computed from the old `I` and `V[x]`. -/
def execAddI (x : Nibble) (s : State) : Host.Outcome State Fault Refusal :=
  .next ((s.setI (s.i.toNat + (s.reg x).toNat)).writeIndexFlag (indexCarry s.i (s.reg x))).advance

/-- `LD F, Vx` (R104): the whole of `V[x]`, with no nibble mask. -/
def execLdF (x : Nibble) (s : State) : Host.Outcome State Fault Refusal :=
  .next (s.setI (glyphAddr s.cfg (s.reg x))).advance

/-- `LD B, Vx` (R105). -/
def execLdB (x : Nibble) (s : State) : Host.Outcome State Fault Refusal :=
  .next (s.writeBytes s.i.toNat (bcdDigits (s.reg x))).advance

/-- `LD [I], Vx` (R106). -/
def execStRegs (x : Nibble) (s : State) : Host.Outcome State Fault Refusal :=
  .next ((s.writeBytes s.i.toNat (s.regsUpTo x)).stepIndex x).advance

/-- `LD Vx, [I]` (R107). -/
def execLdRegs (x : Nibble) (s : State) : Host.Outcome State Fault Refusal :=
  .next ((s.setRegs 0 (s.readBytes s.i.toNat (blockLength x))).stepIndex x).advance

end Sys2Proof.Machine
end

