-- ==== Sys2Proof/Machine/Input.lean ====
section
/-! DEFINITION. SKP, SKNP and LD Vx,K (47_input.md). -/

namespace Sys2Proof.Machine

/-- `SKP Vx` (R94). -/
def execSkp (x : Nibble) (s : State) : Host.Outcome State Fault Refusal :=
  .next (s.skipIf (s.key (keyIndex (s.reg x))))

/-- `SKNP Vx` (R95). -/
def execSknp (x : Nibble) (s : State) : Host.Outcome State Fault Refusal :=
  .next (s.skipIf (!s.key (keyIndex (s.reg x))))

/-- `LD Vx, K` (R97): the latch is set; `V[x]` is written when the wait ends (R98). -/
def execLdVxK (x : Nibble) (s : State) : Host.Outcome State Fault Refusal :=
  .next (s.beginWait x).advance

end Sys2Proof.Machine
end

