-- ==== Sys2Proof/Machine/LoadAdd.lean ====
section
/-! DEFINITION. LD Vx,nn and ADD Vx,nn (42_load_add.md), which write no flag. -/

namespace Sys2Proof.Machine

/-- `LD Vx, nn` (R73). -/
def execLdImm (x : Nibble) (nn : Byte) (s : State) : Host.Outcome State Fault Refusal :=
  .next (s.setReg x nn).advance

/-- `ADD Vx, nn` (R74): modulo 256, no carry. -/
def execAddImm (x : Nibble) (nn : Byte) (s : State) : Host.Outcome State Fault Refusal :=
  .next (s.setReg x (BitVec.ofNat 8 (((s.reg x).toNat + nn.toNat) % 256))).advance

end Sys2Proof.Machine
end

