-- ==== Sys2Proof/Machine/Random.lean ====
section
/-! DEFINITION. RND (45_random.md). -/

namespace Sys2Proof.Machine

/-- `RND Vx, nn` (R88): the `rnd` argument of the step, masked. -/
def execRnd (x : Nibble) (nn : Byte) (s : State) : Host.Outcome State Fault Refusal :=
  .next (s.setReg x (s.rnd &&& nn)).advance

end Sys2Proof.Machine
end

