-- ==== Sys2Proof/Machine/Commands.lean ====
section
/-! DEFINITION. The commands of the interface (00_scope.md R8): what each does to the state and what it answers, and
the choice of the next command. Instructions run inside `cpu_step` (30_encoding.md R60). -/

namespace Sys2Proof.Machine

/-- What `cpu_step` returns (R8). -/
inductive StepStatus where
  | executed
  | waiting
  | halted
  deriving DecidableEq, Repr

/-- What `dump` returns (60_exceptions.md R126): the elements of R13 and nothing beside them. The parameters are not
read by any command (R6, R28) and are no state (R27), and the model's own fields are no element of R13. -/
structure Dump where
  regs : Vector Byte 16
  i : Word
  pc : Addr
  stack : List Addr
  sp : Nat
  dt : Byte
  st : Byte
  mem : Vector Byte 4096
  fb : Framebuffer
  dirty : Bool
  keypad : Vector Bool 16
  fsm : Fsm
  waitTarget : Nibble
  fault : FaultRecord
  accCpu : Nat
  accTimer : Nat
  accFrame : Nat
  deriving DecidableEq, Repr

/-- What a command returns (R8). -/
inductive Response where
  /-- no result -/
  | done
  /-- `load_rom`: the bytes are in memory -/
  | loaded
  /-- `load_rom`: the fault `LOAD_ERROR` -/
  | loadError
  /-- `load_rom` outside `LOAD` -/
  | refused
  /-- `clock_advance`: the three tick counts -/
  | ticks (cpu timer frame : Nat)
  /-- `cpu_step` -/
  | stepped (status : StepStatus)
  /-- `take_dirty` -/
  | dirty (was : Bool)
  /-- `framebuffer` -/
  | frame (fb : Framebuffer)
  /-- `sound_active` -/
  | sound (active : Bool)
  /-- `status`: the codes of `fsm` and the fault record -/
  | status (fsm : BitVec 2) (kind : BitVec 3) (opcode : Word) (addr : Addr)
  /-- `dump`: the elements of R13 -/
  | dump (d : Dump)
  deriving DecidableEq, Repr

/-! ## `cpu_step` (R60) -/

/-- The step has begun: `fsm <- RUN`, and `rnd` is its argument (R60, R9). -/
def State.beginStep (s : State) (rnd : Byte) : State :=
  { s with fsm := .run, rnd := rnd, draws := s.draws + 1 }

/-- Decoding the fetched word and performing its rule; an illegal word raises `ILLEGAL_INSTRUCTION(w, pc)` (R55, R60). -/
def runWord (w : Word) (s : State) : Host.Outcome State Fault Refusal :=
  match decode w with
  | .ok i => exec i s
  | .error _ => .next (s.takeFault .illegalInstruction w s.pc)

/-- `cpu_step(rnd)` (R60): in `HALT` and in `WAIT_KEY` nothing changes. -/
def cpuStep (rnd : Byte) (s : State) : Host.Outcome State Fault Refusal :=
  match s.fsm with
  | .halt => .next s
  | .waitKey => .next s
  | .load => runWord s.fetchWord (s.beginStep rnd)
  | .run => runWord s.fetchWord (s.beginStep rnd)

/-- What `cpu_step` answers, from the state it leaves (R60, R109). -/
def stepStatus (s : State) : StepStatus :=
  match s.fsm with
  | .halt => .halted
  | .waitKey => .waiting
  | .load => .executed
  | .run => .executed

/-! ## The other commands -/

/-- `reset()` (R129): every element of R13 at its reset value. The parameters stay (R6), and so do the model's own
fields (log entry 5). -/
def resetCommand (s : State) : State :=
  { State.resetWith s.cfg with rnd := s.rnd, draws := s.draws, inbox := s.inbox }

/-- `load_rom(data)` (20_memory.md R43). -/
def loadRom (data : List Byte) (s : State) : State × Response :=
  match s.fsm with
  | .load =>
    if romMax < data.length then (s.takeFault .loadError 0 0, .loadError)
    else (s.writeBytes romBase data, .loaded)
  | .run => (s, .refused)
  | .waitKey => (s, .refused)
  | .halt => (s, .refused)

/-- `set_key(code, down)` (60_exceptions.md R122): a key-down transition ends a wait (47_input.md R98). -/
def setKey (code : Nibble) (down : Bool) (s : State) : State :=
  if s.fsm = .waitKey ∧ down = true ∧ s.key code = false then (s.setKeyBit code down).endWait code
  else s.setKeyBit code down

/-- The ticks one stream gives: the whole part is consumed (R119). -/
def streamTicks (timeQ rate acc elapsed : Nat) : Nat := (acc + elapsed * rate) / timeQ

/-- What one stream carries: the rest (R119). -/
def streamCarry (timeQ rate acc elapsed : Nat) : Nat := (acc + elapsed * rate) % timeQ

/-- `clock_advance(elapsed)` (R119): in a key wait the CPU stream is drained. -/
def clockAdvance (elapsed : Nat) (s : State) : State × Response :=
  let waits := s.fsm = .waitKey
  let q := s.cfg.timeQ
  ({ s with
      accCpu := if waits then 0 else streamCarry q s.cfg.cpuHz s.accCpu elapsed
      accTimer := streamCarry q timerHz s.accTimer elapsed
      accFrame := streamCarry q s.cfg.frameHz s.accFrame elapsed },
    .ticks (if waits then 0 else streamTicks q s.cfg.cpuHz s.accCpu elapsed)
      (streamTicks q timerHz s.accTimer elapsed)
      (streamTicks q s.cfg.frameHz s.accFrame elapsed))

/-- One timer down by one, floored at zero (R117). -/
def countDown (t : Byte) : Byte := BitVec.ofNat 8 (t.toNat - 1)

/-- `timer_tick()` (R117): both timers, but not in `HALT` (R114). -/
def timerTick (s : State) : State :=
  match s.fsm with
  | .halt => s
  | .load => { s with dt := countDown s.dt, st := countDown s.st }
  | .run => { s with dt := countDown s.dt, st := countDown s.st }
  | .waitKey => { s with dt := countDown s.dt, st := countDown s.st }

/-- `take_dirty()` (R123): the flag is cleared. -/
def takeDirty (s : State) : State := { s with dirty := false }

/-- `sound_active()` (R118). -/
def soundActive (s : State) : Bool := s.st != 0 && s.fsm != .halt

/-- `status()` (R113). -/
def statusResponse (s : State) : Response :=
  .status s.fsm.code s.fault.kind.code s.fault.opcode s.fault.addr

/-- The elements of R13 as they stand, memory byte by byte (R126; log entry 14). -/
def State.toDump (s : State) : Dump where
  regs := s.regs
  i := s.i
  pc := s.pc
  stack := s.stack
  sp := s.sp
  dt := s.dt
  st := s.st
  mem := ⟨⟨s.readBytes 0 memSize⟩, by simp [State.readBytes, blockAddrs, memSize]⟩
  fb := s.fb
  dirty := s.dirty
  keypad := s.keypad
  fsm := s.fsm
  waitTarget := s.waitTarget
  fault := s.fault
  accCpu := s.accCpu
  accTimer := s.accTimer
  accFrame := s.accFrame

/-- One command: the state it leaves and what it answers. -/
def runCommand (c : Command) (s : State) : Host.Outcome (State × Response) Fault Refusal :=
  match c with
  | .reset => .next (resetCommand s, .done)
  | .loadRom data => .next (loadRom data s)
  | .setKey code down => .next (setKey code down s, .done)
  | .clockAdvance elapsed => .next (clockAdvance elapsed s)
  | .cpuStep rnd =>
    match cpuStep rnd s with
    | .next t => .next (t, .stepped (stepStatus t))
    | .fault r => .fault r
    | .refused r => .refused r
  | .timerTick => .next (timerTick s, .done)
  | .takeDirty => .next (takeDirty s, .dirty s.dirty)
  | .framebuffer => .next (s, .frame s.fb)
  | .soundActive => .next (s, .sound (soundActive s))
  | .status => .next (s, statusResponse s)
  | .dump => .next (s, .dump s.toDump)

/-- The next atomic transition (log entries 3 and 4): the oldest command of the inbox, or, when there is none, a
`cpu_step` whose argument is a free draw. The response is not kept. -/
def nextTransition (s : State) : Host.Outcome State Fault Refusal :=
  match s.inbox with
  | [] => cpuStep (Config.draw s.draws) s
  | c :: rest =>
    match runCommand c { s with inbox := rest } with
    | .next t => .next t.1
    | .fault r => .fault r
    | .refused r => .refused r

/-! ## Placing an instruction -/

/-- The sequencer can fetch: a halted or waiting core is put back to `RUN`, a halted one with no fault recorded
(R25, R59; log entry 8). -/
def State.readyToFetch (s : State) : State :=
  match s.fsm with
  | .load => { s with inbox := [] }
  | .run => { s with inbox := [] }
  | .waitKey => { s with inbox := [], fsm := .run }
  | .halt => { s with inbox := [], fsm := .run, fault := FaultRecord.empty }

/-- The instruction whose table bits are `w` stored at `pc`, high byte first, in a core that fetches next. -/
def State.placeWord (s : State) (nbits w : Nat) : State :=
  s.readyToFetch.writeBytes s.pc.toNat (bytesOfWord (tableWord nbits w))

end Sys2Proof.Machine
end

