-- ==== Sys2Proof/Safety.lean ====
section
/-! DEFINITION. The terms the statements are written in: what two states agree on piece by piece, what a transition
may change, how a fault shows, the invariant of 10_state.md R30, and a safe state. -/

namespace Sys2Proof.Machine

/-! ## Frames -/

/-- A piece of the state: R13's elements, each register, byte, pixel and key apart, and the model's own fields. -/
inductive Piece where
  | reg (r : Nibble)
  | index
  | pc
  | stackEntry (k : Nat)
  | sp
  | delay
  | sound
  | byte (a : Addr)
  | pixel (p : Pixel)
  | dirty
  | key (k : Nibble)
  | fsm
  | waitTarget
  | fault
  | accCpu
  | accTimer
  | accFrame
  | params
  | rnd
  | draws
  | inbox
  deriving DecidableEq, Repr

/-- The two states agree on the piece. -/
def SameAt (s t : State) : Piece → Prop
  | .reg r => t.reg r = s.reg r
  | .index => t.i = s.i
  | .pc => t.pc = s.pc
  | .stackEntry k => t.stack[k]? = s.stack[k]?
  | .sp => t.sp = s.sp
  | .delay => t.dt = s.dt
  | .sound => t.st = s.st
  | .byte a => t.readByte a = s.readByte a
  | .pixel p => t.fb.get p = s.fb.get p
  | .dirty => t.dirty = s.dirty
  | .key k => t.key k = s.key k
  | .fsm => t.fsm = s.fsm
  | .waitTarget => t.waitTarget = s.waitTarget
  | .fault => t.fault = s.fault
  | .accCpu => t.accCpu = s.accCpu
  | .accTimer => t.accTimer = s.accTimer
  | .accFrame => t.accFrame = s.accFrame
  | .params => t.cfg = s.cfg
  | .rnd => t.rnd = s.rnd
  | .draws => t.draws = s.draws
  | .inbox => t.inbox = s.inbox

/-- From `s` to `t` every piece is unchanged but those that `may` names. -/
def OnlyChanges (s t : State) (may : Piece → Prop) : Prop := ∀ p, ¬ may p → SameAt s t p

/-- The pieces of a list. -/
def These (ps : List Piece) : Piece → Prop := fun p => p ∈ ps

/-! ## Faults -/

/-- A fault was taken: the record holds the kind, the word and the pc, `fsm` is `HALT`, all else is unchanged (R109). -/
def HaltsWith (s t : State) (k : FaultKind) (w : Word) : Prop :=
  t.fault = ⟨k, w, s.pc⟩ ∧ t.fsm = .halt ∧ OnlyChanges s t (These [.fault, .fsm])

/-- The core is neither halted nor waiting: a `cpu_step` executes an instruction (R60). -/
def Runs (s : State) : Prop := s.fsm = .load ∨ s.fsm = .run

/-! ## Sprites -/

/-- A pixel drawn at column `px`, row `py` lands at `p`: wrapped under `QUIRK_DRAW_WRAP`, else only inside (R91). -/
abbrev Lands (wrap : Bool) (px py : Nat) (p : Pixel) : Prop :=
  if wrap then p.2.val = px % 64 ∧ p.1.val = py % 32 else p.2.val = px ∧ p.1.val = py

/-- `DRW Vx, Vy, n` draws a 1-bit at `p`: bit `7 - c` of sprite byte `r`, at `(ox + c, oy + r)` (R89, R90). -/
def Draws (s : State) (x y n : Nibble) (p : Pixel) : Prop :=
  ∃ r c : Nat, r < n.toNat ∧ c < 8 ∧ (s.readByte (maskAddr (s.i.toNat + r))).getLsbD (7 - c) = true ∧
    Lands s.cfg.drawWrap ((s.reg x).toNat % 64 + c) ((s.reg y).toNat % 32 + r) p

/-! ## The virtual clock -/

/-- The ticks a run of `clock_advance` commands returns in all, stream by stream (R120). -/
def tickTotals (s : State) : List Nat → Option (Nat × Nat × Nat)
  | [] => some (0, 0, 0)
  | e :: es =>
    match runCommand (.clockAdvance e) s with
    | .next (t, .ticks c m f) => (tickTotals t es).map fun r => (c + r.1, m + r.2.1, f + r.2.2)
    | _ => none

/-! ## The invariant -/

/-- What every command preserves: the clauses of R30, the stack's shape (R18), the parameters' legal values (R5) and
memory's canonical form. -/
structure Inv (s : State) : Prop where
  legal : s.cfg.Legal
  pcEven : s.pc.toNat % 2 = 0
  indexRange : s.i.toNat < memSize
  stackShape : s.stack.length = s.cfg.stackDepth
  depth : s.sp ≤ s.cfg.stackDepth
  stackEven : ∀ k, k < s.sp → (s.stackAt k).toNat % 2 = 0
  accCpu : s.accCpu < s.cfg.timeQ
  accTimer : s.accTimer < s.cfg.timeQ
  accFrame : s.accFrame < s.cfg.timeQ
  faultKind : s.fault.kind = .none ↔ s.fsm ≠ .halt
  memory : Memory.wf s.cfg s.mem

/-- A safe state: no fatal error has been taken (R109). -/
def Safe (s : State) : Prop := s.fsm ≠ .halt

end Sys2Proof.Machine
end

