-- ==== Sys2Proof/Certificates/Slice0/Obligations.lean ====
section
/-! DEFINITION. The statements for the provers. Each docstring names the rules of spec/ it formalises. A result
statement concludes that `exec` answers a next state, with what the rule gives of it and its frame. -/

open Sys2Proof Sys2Proof.Machine

/-! ## Encoding -/

/-- R50, R54: decoding the word of a well-formed instruction gives it back, with every operand. -/
def Obligations.DecodeOfEncodeIsTheInstruction : Prop :=
  ∀ i : Instr, WellFormed i → decode (encode i) = .ok i

/-- R50, R54: a word that decodes is the encoding of what it decodes to, which is well-formed. -/
def Obligations.EncodeOfDecodeIsTheWord : Prop :=
  ∀ (w : Word) (i : Instr), decode w = .ok i → WellFormed i ∧ encode i = w

/-- R54: a decoded word lies in its instruction's row and in no other of the 34 legal rows; a SYS word lies in none of
them. SYS's row is the words `0nnn` that CLS and RET leave. -/
def Obligations.DecodedWordLiesInItsRowOnly : Prop :=
  ∀ (w : Word) (i : Instr), decode w = .ok i →
    (opcodeRow i).hits w = true ∧
      (∀ r ∈ legalRows, r.hits w = true → (∀ nnn, i ≠ .sys nnn) ∧ r = opcodeRow i) ∧
      ((∃ nnn, i = .sys nnn) ↔
        (⟨0x0000, 0xF000⟩ : OpcodeRow).hits w = true ∧ w ≠ 0x00E0#16 ∧ w ≠ 0x00EE#16)

/-- R53, R55: the illegal words, family by family: what does not decode, and SYS. -/
def Obligations.IllegalWordsByFamily : Prop :=
  ∀ w : Word,
    (∃ e, decode w = .error e) ↔
      (fieldFamily w = 0x5#4 ∧ fieldN w ≠ 0x0#4) ∨
      (fieldFamily w = 0x8#4 ∧ fieldN w ∈ [0x8#4, 0x9#4, 0xA#4, 0xB#4, 0xC#4, 0xD#4, 0xF#4]) ∨
      (fieldFamily w = 0x9#4 ∧ fieldN w ≠ 0x0#4) ∨
      (fieldFamily w = 0xE#4 ∧ fieldNn w ∉ [0x9E#8, 0xA1#8]) ∨
      (fieldFamily w = 0xF#4 ∧
        fieldNn w ∉ [0x07#8, 0x0A#8, 0x15#8, 0x18#8, 0x1E#8, 0x29#8, 0x33#8, 0x55#8, 0x65#8])

/-- R54: words written out from the opcode map, one of each family (sanity). -/
def Obligations.WordsOfTheMapDecode : Prop :=
  decode 0x00E0#16 = .ok .cls ∧ decode 0x1300#16 = .ok (.jp 0x300) ∧ decode 0x6005#16 = .ok (.ldImm 0 5) ∧
    decode 0x8F14#16 = .ok (.addReg 15 1) ∧ decode 0xD015#16 = .ok (.drw 0 1 5) ∧ decode 0xE19E#16 = .ok (.skp 1) ∧
    decode 0xF265#16 = .ok (.ldRegs 2) ∧ decode 0x0123#16 = .ok (.sys 0x123) ∧ decode 0x8008#16 = .error .illegal8

/-! ## The step -/

/-- R35: the fetched word is big-endian; at an even `pc` the second address is not reduced. -/
def Obligations.FetchIsBigEndian : Prop :=
  ∀ s : State,
    s.fetchWord.toNat = (s.readByte s.pc).toNat * 256 + (s.readByte (BitVec.ofNat 12 (s.pc.toNat + 1))).toNat ∧
    (s.pc.toNat % 2 = 0 → (BitVec.ofNat 12 (s.pc.toNat + 1)).toNat = s.pc.toNat + 1)

/-- R60: with no command waiting, a running core executes the instruction its word decodes to, with `fsm` at `RUN`
first. That a step with an empty inbox is a `cpu_step` is the model's choice (log entry 4), and its argument is the
free draw (log entry 2). -/
def Obligations.StepRunsTheDecodedInstruction : Prop :=
  ∀ (s : State) (i : Instr), s.inbox = [] → Runs s → decode s.fetchWord = .ok i →
    step s = exec i { s with fsm := .run, rnd := Config.draw s.draws, draws := s.draws + 1 }

/-- R60: `cpu_step(rnd)` executes the instruction its word decodes to, with this `rnd`, and answers by the state it
leaves (`halted` for the step that takes the fault: log entry 13). -/
def Obligations.CpuStepRunsTheDecodedInstruction : Prop :=
  ∀ (s t : State) (rnd : Byte) (i : Instr), Runs s → decode s.fetchWord = .ok i →
    exec i { s with fsm := .run, rnd := rnd, draws := s.draws + 1 } = .next t →
    runCommand (.cpuStep rnd) s =
      .next (t, .stepped (if t.fsm = .halt then .halted else if t.fsm = .waitKey then .waiting else .executed))

/-- R55, R60: a running core halts on a word that is none of the 34 legal rows', SYS included. That a step with an
empty inbox is a `cpu_step` is the model's choice (log entry 4). -/
def Obligations.IllegalWordHalts : Prop :=
  ∀ s : State, s.inbox = [] → Runs s →
    ((∀ r ∈ legalRows, r.hits s.fetchWord = false) ↔
      ∃ t, step s = .next t ∧ t.fault = ⟨.illegalInstruction, s.fetchWord, s.pc⟩ ∧ t.fsm = .halt ∧
        OnlyChanges s t (These [.fault, .fsm, .rnd, .draws]))

/-- R60, R114: `cpu_step` changes nothing in `HALT` and in `WAIT_KEY`. Nor does `step` with an empty inbox, which is a
`cpu_step` by the model's choice (log entry 4). -/
def Obligations.HaltedOrWaitingStepChangesNothing : Prop :=
  ∀ (s : State) (rnd : Byte),
    (s.fsm = .halt → runCommand (.cpuStep rnd) s = .next (s, .stepped .halted) ∧ (s.inbox = [] → step s = .next s)) ∧
    (s.fsm = .waitKey → runCommand (.cpuStep rnd) s = .next (s, .stepped .waiting) ∧ (s.inbox = [] → step s = .next s))

/-- R8 (log entry 3: the inbox is the model's choice): a waiting command is the next transition. -/
def Obligations.StepTakesTheOldestCommand : Prop :=
  ∀ (s t : State) (c : Command) (rest : List Command) (r : Response), s.inbox = c :: rest →
    runCommand c { s with inbox := rest } = .next (t, r) → step s = .next t

/-- Every step answers a next state: a fatal error of R108 is one too, with `fsm` at `HALT` (log entry 7, which reads
R109 so), and no word is without an effect (R56). -/
def Obligations.StepAlwaysAnswersANextState : Prop := ∀ s : State, ∃ t, step s = .next t

/-- R110 (log entries 6 and 13): a `cpu_step` that halts the core leaves the state before it, but for the record, which
holds the fetched word and its address, and `fsm`. -/
def Obligations.FaultsArePrecise : Prop :=
  ∀ (s t : State) (rnd : Byte) (r : Response), Runs s → runCommand (.cpuStep rnd) s = .next (t, r) → t.fsm = .halt →
    r = .stepped .halted ∧ t.fault.kind ∈ [.illegalInstruction, .stackOverflow, .stackUnderflow, .misalignedPc] ∧
      t.fault.opcode = s.fetchWord ∧ t.fault.addr = s.pc ∧
      OnlyChanges s t (These [.fault, .fsm, .rnd, .draws])

/-! ## Control (40_control.md, 44_jump_add.md) -/

/-- R64. -/
def Obligations.ClsClearsTheDisplay : Prop :=
  decode 0x00E0#16 = .ok .cls ∧
  ∀ s : State, ∃ t, exec .cls s = .next t ∧ (∀ p, t.fb.get p = false) ∧ t.dirty = true ∧
    t.pc.toNat = (s.pc.toNat + 2) % 4096 ∧
    OnlyChanges s t (fun q => q ∈ [.dirty, .pc] ∨ ∃ p, q = .pixel p)

/-- R65. -/
def Obligations.RetPopsTheStack : Prop :=
  decode 0x00EE#16 = .ok .ret ∧
  ∀ s : State,
    (s.sp = 0 → ∃ t, exec .ret s = .next t ∧ HaltsWith s t .stackUnderflow 0x00EE) ∧
    (s.sp ≠ 0 → ∃ t, exec .ret s = .next t ∧ t.sp = s.sp - 1 ∧ t.pc = s.stackAt (s.sp - 1) ∧
      OnlyChanges s t (These [.sp, .pc]))

/-- R66. -/
def Obligations.JpGoesToItsTarget : Prop :=
  ∀ nnn : Addr, decode (0x1#4 ++ nnn) = .ok (.jp nnn) ∧
    ∀ s : State,
      (nnn.toNat % 2 = 1 → ∃ t, exec (.jp nnn) s = .next t ∧ HaltsWith s t .misalignedPc (0x1#4 ++ nnn)) ∧
      (nnn.toNat % 2 = 0 → ∃ t, exec (.jp nnn) s = .next t ∧ t.pc = nnn ∧ OnlyChanges s t (These [.pc]))

/-- R67, R112: an odd target is reported first, then a full stack; else the return address is pushed. The stack has its
shape and `sp` its range (R18, R30). -/
def Obligations.CallPushesTheReturnAddress : Prop :=
  ∀ nnn : Addr, decode (0x2#4 ++ nnn) = .ok (.call nnn) ∧
    ∀ s : State, s.stack.length = s.cfg.stackDepth → s.sp ≤ s.cfg.stackDepth →
      (nnn.toNat % 2 = 1 → ∃ t, exec (.call nnn) s = .next t ∧ HaltsWith s t .misalignedPc (0x2#4 ++ nnn)) ∧
      (nnn.toNat % 2 = 0 → s.sp = s.cfg.stackDepth →
        ∃ t, exec (.call nnn) s = .next t ∧ HaltsWith s t .stackOverflow (0x2#4 ++ nnn)) ∧
      (nnn.toNat % 2 = 0 → s.sp < s.cfg.stackDepth →
        ∃ t, exec (.call nnn) s = .next t ∧ (t.stackAt s.sp).toNat = (s.pc.toNat + 2) % 4096 ∧ t.sp = s.sp + 1 ∧
          t.pc = nnn ∧ OnlyChanges s t (These [.stackEntry s.sp, .sp, .pc]))

/-- R67, R65: CALL and then RET at its target come back to the instruction after the CALL, with the old depth. -/
def Obligations.CallThenRetReturns : Prop :=
  ∀ (nnn : Addr) (s : State), s.stack.length = s.cfg.stackDepth → s.sp < s.cfg.stackDepth → nnn.toNat % 2 = 0 →
    ∃ t u, exec (.call nnn) s = .next t ∧ exec .ret t = .next u ∧ u.pc.toNat = (s.pc.toNat + 2) % 4096 ∧
      u.sp = s.sp ∧ OnlyChanges s u (These [.stackEntry s.sp, .pc])

/-- R68. -/
def Obligations.SysIsIllegal : Prop :=
  ∀ nnn : Addr, nnn ≠ 0x0E0#12 → nnn ≠ 0x0EE#12 → decode (0x0#4 ++ nnn) = .ok (.sys nnn) ∧
    ∀ s : State, ∃ t, exec (.sys nnn) s = .next t ∧ HaltsWith s t .illegalInstruction (0x0#4 ++ nnn)

/-- R87: the target is `nnn + V0` modulo 4096; an odd one faults. -/
def Obligations.JpV0AddsV0 : Prop :=
  ∀ nnn : Addr, decode (0xB#4 ++ nnn) = .ok (.jpV0 nnn) ∧
    ∀ s : State,
      ((nnn.toNat + (s.reg 0).toNat) % 2 = 1 →
        ∃ t, exec (.jpV0 nnn) s = .next t ∧ HaltsWith s t .misalignedPc (0xB#4 ++ nnn)) ∧
      ((nnn.toNat + (s.reg 0).toNat) % 2 = 0 →
        ∃ t, exec (.jpV0 nnn) s = .next t ∧ t.pc.toNat = (nnn.toNat + (s.reg 0).toNat) % 4096 ∧
          OnlyChanges s t (These [.pc]))

/-! ## Skips (41_compare_skip.md) -/

/-- R69, R70. -/
def Obligations.ImmediateSkips : Prop :=
  ∀ (x : Nibble) (nn : Byte),
    decode (0x3#4 ++ x ++ nn) = .ok (.seImm x nn) ∧ decode (0x4#4 ++ x ++ nn) = .ok (.sneImm x nn) ∧
    ∀ s : State,
      (∃ t, exec (.seImm x nn) s = .next t ∧ OnlyChanges s t (These [.pc]) ∧
        t.pc.toNat = (s.pc.toNat + if s.reg x = nn then 4 else 2) % 4096) ∧
      (∃ t, exec (.sneImm x nn) s = .next t ∧ OnlyChanges s t (These [.pc]) ∧
        t.pc.toNat = (s.pc.toNat + if s.reg x = nn then 2 else 4) % 4096)

/-- R71, R72: the words with `n ≠ 0` are illegal. -/
def Obligations.RegisterSkips : Prop :=
  ∀ x y : Nibble,
    decode (0x5#4 ++ x ++ y ++ 0x0#4) = .ok (.seReg x y) ∧ decode (0x9#4 ++ x ++ y ++ 0x0#4) = .ok (.sneReg x y) ∧
    (∀ n : Nibble, n ≠ 0 → decode (0x5#4 ++ x ++ y ++ n) = .error .illegal5 ∧
      decode (0x9#4 ++ x ++ y ++ n) = .error .illegal9) ∧
    ∀ s : State,
      (∃ t, exec (.seReg x y) s = .next t ∧ OnlyChanges s t (These [.pc]) ∧
        t.pc.toNat = (s.pc.toNat + if s.reg x = s.reg y then 4 else 2) % 4096) ∧
      (∃ t, exec (.sneReg x y) s = .next t ∧ OnlyChanges s t (These [.pc]) ∧
        t.pc.toNat = (s.pc.toNat + if s.reg x = s.reg y then 2 else 4) % 4096)

/-! ## Loads, adds and the ALU (42_load_add.md, 43_alu.md) -/

/-- R73, R74: no flag is written. -/
def Obligations.LoadAndAddImmediate : Prop :=
  ∀ (x : Nibble) (nn : Byte),
    decode (0x6#4 ++ x ++ nn) = .ok (.ldImm x nn) ∧ decode (0x7#4 ++ x ++ nn) = .ok (.addImm x nn) ∧
    ∀ s : State,
      (∃ t, exec (.ldImm x nn) s = .next t ∧ t.reg x = nn ∧ t.pc.toNat = (s.pc.toNat + 2) % 4096 ∧
        OnlyChanges s t (These [.reg x, .pc])) ∧
      (∃ t, exec (.addImm x nn) s = .next t ∧ t.reg x = s.reg x + nn ∧ t.pc.toNat = (s.pc.toNat + 2) % 4096 ∧
        OnlyChanges s t (These [.reg x, .pc]))

/-- R77, R78, R79, R80, R81: `VF` is written only as the destination. -/
def Obligations.CopyAndLogicWriteNoFlag : Prop :=
  ∀ x y : Nibble,
    decode (0x8#4 ++ x ++ y ++ 0x0#4) = .ok (.ldReg x y) ∧ decode (0x8#4 ++ x ++ y ++ 0x1#4) = .ok (.orReg x y) ∧
    decode (0x8#4 ++ x ++ y ++ 0x2#4) = .ok (.andReg x y) ∧ decode (0x8#4 ++ x ++ y ++ 0x3#4) = .ok (.xorReg x y) ∧
    ∀ s : State, ∀ iv ∈ [(Instr.ldReg x y, s.reg y), (.orReg x y, s.reg x ||| s.reg y),
        (.andReg x y, s.reg x &&& s.reg y), (.xorReg x y, s.reg x ^^^ s.reg y)],
      ∃ t, exec iv.1 s = .next t ∧ t.reg x = iv.2 ∧ t.pc.toNat = (s.pc.toNat + 2) % 4096 ∧
        OnlyChanges s t (These [.reg x, .pc])

/-- R76, R82: the sum modulo 256 and the carry; with `x = F` the order of the writes decides. -/
def Obligations.AddSetsCarry : Prop :=
  ∀ x y : Nibble, decode (0x8#4 ++ x ++ y ++ 0x4#4) = .ok (.addReg x y) ∧
    ∀ s : State, ∃ t, exec (.addReg x y) s = .next t ∧
      (x ≠ 15 → t.reg x = s.reg x + s.reg y) ∧
      (x ≠ 15 ∨ s.cfg.flagOrder = .flagLast →
        t.reg 15 = if 255 < (s.reg x).toNat + (s.reg y).toNat then 1 else 0) ∧
      (x = 15 → s.cfg.flagOrder = .flagFirst → t.reg 15 = s.reg x + s.reg y) ∧
      t.pc.toNat = (s.pc.toNat + 2) % 4096 ∧ OnlyChanges s t (These [.reg x, .reg 15, .pc])

/-- R76, R83, R85: the difference modulo 256 and not-borrow; SUBN swaps the operands. -/
def Obligations.SubtractsSetNotBorrow : Prop :=
  ∀ x y : Nibble, decode (0x8#4 ++ x ++ y ++ 0x5#4) = .ok (.subReg x y) ∧
    decode (0x8#4 ++ x ++ y ++ 0x7#4) = .ok (.subn x y) ∧
    ∀ s : State, ∀ iab ∈ [(Instr.subReg x y, s.reg x, s.reg y), (.subn x y, s.reg y, s.reg x)],
      ∃ t, exec iab.1 s = .next t ∧
        (x ≠ 15 → t.reg x = iab.2.1 - iab.2.2) ∧
        (x ≠ 15 ∨ s.cfg.flagOrder = .flagLast → t.reg 15 = if iab.2.2 ≤ iab.2.1 then 1 else 0) ∧
        (x = 15 → s.cfg.flagOrder = .flagFirst → t.reg 15 = iab.2.1 - iab.2.2) ∧
        t.pc.toNat = (s.pc.toNat + 2) % 4096 ∧ OnlyChanges s t (These [.reg x, .reg 15, .pc])

/-- R76, R84, R86: the source is `V[x]` or `V[y]` by `QUIRK_SHIFT_SOURCE`; the flag is the bit shifted out. -/
def Obligations.ShiftsSetTheBitShiftedOut : Prop :=
  ∀ x y : Nibble, decode (0x8#4 ++ x ++ y ++ 0x6#4) = .ok (.shr x y) ∧
    decode (0x8#4 ++ x ++ y ++ 0xE#4) = .ok (.shl x y) ∧
    ∀ (s : State) (v : Byte), v = (if s.cfg.shiftSource = .vx then s.reg x else s.reg y) →
      ∀ irf ∈ [(Instr.shr x y, v >>> 1, v.toNat % 2), (.shl x y, v <<< 1, v.toNat / 128)],
        ∃ t, exec irf.1 s = .next t ∧
          (x ≠ 15 → t.reg x = irf.2.1) ∧
          (x ≠ 15 ∨ s.cfg.flagOrder = .flagLast → (t.reg 15).toNat = irf.2.2) ∧
          (x = 15 → s.cfg.flagOrder = .flagFirst → t.reg 15 = irf.2.1) ∧
          t.pc.toNat = (s.pc.toNat + 2) % 4096 ∧ OnlyChanges s t (These [.reg x, .reg 15, .pc])

/-! ## RND (45_random.md) -/

/-- R88, R9: RND writes the step's argument masked by `nn`, whatever byte the argument is. -/
def Obligations.RndMasksTheDraw : Prop :=
  ∀ (x : Nibble) (nn : Byte), decode (0xC#4 ++ x ++ nn) = .ok (.rnd x nn) ∧
    (∀ s : State, ∃ t, exec (.rnd x nn) s = .next t ∧ t.reg x = s.rnd &&& nn ∧
      t.pc.toNat = (s.pc.toNat + 2) % 4096 ∧ OnlyChanges s t (These [.reg x, .pc])) ∧
    ∀ (s : State) (rnd : Byte), Runs s → s.fetchWord = 0xC#4 ++ x ++ nn →
      ∃ t, runCommand (.cpuStep rnd) s = .next (t, .stepped .executed) ∧ t.reg x = rnd &&& nn

/-- R9: an instruction other than RND ignores the step's argument. -/
def Obligations.OnlyRndReadsTheDraw : Prop :=
  ∀ (s t : State) (i : Instr) (rnd : Byte), (∀ x nn, i ≠ .rnd x nn) → exec i s = .next t →
    exec i { s with rnd := rnd } = .next { t with rnd := rnd }

/-! ## DRW (46_draw.md) -/

/-- R89, R90, R91, R92: the pixels the sprite covers are toggled, the others kept; `VF` reports a covered pixel that was
1; `dirty` is set for every `n`. -/
def Obligations.DrwTogglesTheSpritesPixels : Prop :=
  ∀ x y n : Nibble, decode (0xD#4 ++ x ++ y ++ n) = .ok (.drw x y n) ∧
    ∀ s : State, ∃ t, exec (.drw x y n) s = .next t ∧
      (∀ p, Draws s x y n p → t.fb.get p = !s.fb.get p) ∧
      (∀ p, ¬ Draws s x y n p → t.fb.get p = s.fb.get p) ∧
      ((∃ p, Draws s x y n p ∧ s.fb.get p = true) → t.reg 15 = 1) ∧
      ((¬ ∃ p, Draws s x y n p ∧ s.fb.get p = true) → t.reg 15 = 0) ∧
      t.dirty = true ∧ t.pc.toNat = (s.pc.toNat + 2) % 4096 ∧
      OnlyChanges s t (fun q => q ∈ [.reg 15, .dirty, .pc] ∨ ∃ p, q = .pixel p)

/-- R89, R92, R93: drawing the same sprite twice restores the display. The first draw collides when a drawn pixel was
1, the second when one was 0 before the first (log entry 10: not, as R93 infers, whenever anything is drawn). -/
def Obligations.DrawingTwiceRestoresTheDisplay : Prop :=
  ∀ (x y n : Nibble) (s : State), x ≠ 15 → y ≠ 15 →
    ∃ t u, exec (.drw x y n) s = .next t ∧ exec (.drw x y n) t = .next u ∧ u.fb = s.fb ∧
      (t.reg 15 = 1 ↔ ∃ p, Draws s x y n p ∧ s.fb.get p = true) ∧
      (u.reg 15 = 1 ↔ ∃ p, Draws s x y n p ∧ s.fb.get p = false)

/-- R89, R92, R93: draws of the same sprite alternate. Two in a row change `VF`, `dirty` and `pc` alone, and a third does
what the first did. The first two clauses on `VF` are R93's sentence on the second draw where its reason holds (the
first draw set every drawn pixel), and where it does not (the first draw cleared them); of any two draws in a row that
draw a pixel, one collides. Log entry 10: R93's sentence without its reason holds of no meaning of DRW. -/
def Obligations.RepeatedDrawsAlternate : Prop :=
  ∀ (x y n : Nibble) (s : State), x ≠ 15 → y ≠ 15 →
    ∃ t u v, exec (.drw x y n) s = .next t ∧ exec (.drw x y n) t = .next u ∧ exec (.drw x y n) u = .next v ∧
      OnlyChanges s u (These [.reg 15, .dirty, .pc]) ∧ v.fb = t.fb ∧ v.reg 15 = t.reg 15 ∧
      ((∃ p, Draws s x y n p) → (∀ p, Draws s x y n p → s.fb.get p = false) → t.reg 15 = 0 ∧ u.reg 15 = 1) ∧
      ((∃ p, Draws s x y n p) → (∀ p, Draws s x y n p → s.fb.get p = true) → t.reg 15 = 1 ∧ u.reg 15 = 0) ∧
      ((∃ p, Draws s x y n p) → t.reg 15 = 1 ∨ u.reg 15 = 1)

/-! ## Input and timers (47_input.md, 48_timers.md) -/

/-- R94, R95, R96: the key is named by the low four bits of `V[x]`. -/
def Obligations.KeySkips : Prop :=
  ∀ x : Nibble, decode (0xE#4 ++ x ++ 0x9E#8) = .ok (.skp x) ∧ decode (0xE#4 ++ x ++ 0xA1#8) = .ok (.sknp x) ∧
    ∀ s : State,
      (∃ t, exec (.skp x) s = .next t ∧ OnlyChanges s t (These [.pc]) ∧
        t.pc.toNat = (s.pc.toNat + if s.key (BitVec.ofNat 4 ((s.reg x).toNat % 16)) then 4 else 2) % 4096) ∧
      (∃ t, exec (.sknp x) s = .next t ∧ OnlyChanges s t (These [.pc]) ∧
        t.pc.toNat = (s.pc.toNat + if s.key (BitVec.ofNat 4 ((s.reg x).toNat % 16)) then 2 else 4) % 4096)

/-- R97: the latch is set and `pc` advances; `V[x]` is not written. While it is set a `cpu_step` executes nothing, the
CPU accumulator is drained, the timers count, and a key already down does not end the wait. -/
def Obligations.LdVxKSetsTheLatch : Prop :=
  ∀ x : Nibble, decode (0xF#4 ++ x ++ 0x0A#8) = .ok (.ldVxK x) ∧
    ∀ s : State, ∃ t, exec (.ldVxK x) s = .next t ∧ t.fsm = .waitKey ∧ t.waitTarget = x ∧
      t.pc.toNat = (s.pc.toNat + 2) % 4096 ∧ OnlyChanges s t (These [.fsm, .waitTarget, .pc]) ∧
      (∀ rnd, runCommand (.cpuStep rnd) t = .next (t, .stepped .waiting)) ∧
      (∀ e, ∃ u m f, runCommand (.clockAdvance e) t = .next (u, .ticks 0 m f) ∧ u.accCpu = 0 ∧ u.fsm = .waitKey) ∧
      (∃ u, runCommand .timerTick t = .next (u, .done) ∧ u.dt.toNat = t.dt.toNat - 1 ∧ u.st.toNat = t.st.toNat - 1 ∧
        u.fsm = .waitKey) ∧
      ∀ code, t.key code = true → ∃ u, runCommand (.setKey code true) t = .next (u, .done) ∧ u.fsm = .waitKey

/-- R98, R122: a key-down transition ends the wait with the key's code; every other `set_key` only updates the
mirror; the same `set_key` again changes nothing more. -/
def Obligations.SetKeyEndsTheWait : Prop :=
  ∀ (s : State) (code : Nibble) (down : Bool), ∃ t, runCommand (.setKey code down) s = .next (t, .done) ∧
    t.key code = down ∧ runCommand (.setKey code down) t = .next (t, .done) ∧
    (s.fsm = .waitKey ∧ down = true ∧ s.key code = false →
      (t.reg s.waitTarget).toNat = code.toNat ∧ t.fsm = .run ∧
        OnlyChanges s t (These [.key code, .reg s.waitTarget, .fsm])) ∧
    (¬ (s.fsm = .waitKey ∧ down = true ∧ s.key code = false) → OnlyChanges s t (These [.key code]))

/-- R99, R100, R101. -/
def Obligations.TimerInstructions : Prop :=
  ∀ x : Nibble, decode (0xF#4 ++ x ++ 0x07#8) = .ok (.ldVxDt x) ∧ decode (0xF#4 ++ x ++ 0x15#8) = .ok (.ldDtVx x) ∧
    decode (0xF#4 ++ x ++ 0x18#8) = .ok (.ldStVx x) ∧
    ∀ s : State,
      (∃ t, exec (.ldVxDt x) s = .next t ∧ t.reg x = s.dt ∧ t.pc.toNat = (s.pc.toNat + 2) % 4096 ∧
        OnlyChanges s t (These [.reg x, .pc])) ∧
      (∃ t, exec (.ldDtVx x) s = .next t ∧ t.dt = s.reg x ∧ t.pc.toNat = (s.pc.toNat + 2) % 4096 ∧
        OnlyChanges s t (These [.delay, .pc])) ∧
      (∃ t, exec (.ldStVx x) s = .next t ∧ t.st = s.reg x ∧ t.pc.toNat = (s.pc.toNat + 2) % 4096 ∧
        OnlyChanges s t (These [.sound, .pc]))

/-! ## Index and memory (49_index_memory.md) -/

/-- R102, R104: `I <- nnn`, and `I <- A(FONT_BASE + 5 * V[x])`. -/
def Obligations.IndexLoads : Prop :=
  (∀ nnn : Addr, decode (0xA#4 ++ nnn) = .ok (.ldI nnn) ∧
    ∀ s : State, ∃ t, exec (.ldI nnn) s = .next t ∧ t.i.toNat = nnn.toNat ∧ t.pc.toNat = (s.pc.toNat + 2) % 4096 ∧
      OnlyChanges s t (These [.index, .pc])) ∧
  ∀ x : Nibble, decode (0xF#4 ++ x ++ 0x29#8) = .ok (.ldF x) ∧
    ∀ s : State, ∃ t, exec (.ldF x) s = .next t ∧ t.i.toNat = (s.cfg.fontBase + 5 * (s.reg x).toNat) % 4096 ∧
      t.pc.toNat = (s.pc.toNat + 2) % 4096 ∧ OnlyChanges s t (These [.index, .pc])

/-- R103: 12-bit masking, and the flag only under `QUIRK_ADD_I_VF`. -/
def Obligations.AddIMasksTheSum : Prop :=
  ∀ x : Nibble, decode (0xF#4 ++ x ++ 0x1E#8) = .ok (.addI x) ∧
    ∀ s : State, ∃ t, exec (.addI x) s = .next t ∧ t.i.toNat = (s.i.toNat + (s.reg x).toNat) % 4096 ∧
      (s.cfg.addIVf = true → t.reg 15 = if 0xFFF < s.i.toNat + (s.reg x).toNat then 1 else 0) ∧
      t.pc.toNat = (s.pc.toNat + 2) % 4096 ∧
      OnlyChanges s t (fun q => q ∈ [.index, .pc] ∨ (s.cfg.addIVf = true ∧ q = .reg 15))

/-- R105: the decimal digits at `A(I)`, `A(I + 1)`, `A(I + 2)`. -/
def Obligations.LdBStoresTheDigits : Prop :=
  ∀ x : Nibble, decode (0xF#4 ++ x ++ 0x33#8) = .ok (.ldB x) ∧
    ∀ s : State, ∃ t, exec (.ldB x) s = .next t ∧
      (t.readByte (maskAddr s.i.toNat)).toNat = (s.reg x).toNat / 100 ∧
      (t.readByte (maskAddr (s.i.toNat + 1))).toNat = (s.reg x).toNat / 10 % 10 ∧
      (t.readByte (maskAddr (s.i.toNat + 2))).toNat = (s.reg x).toNat % 10 ∧
      t.pc.toNat = (s.pc.toNat + 2) % 4096 ∧
      OnlyChanges s t (fun q => q = .pc ∨ ∃ k, k < 3 ∧ q = .byte (maskAddr (s.i.toNat + k)))

/-- R106: `V[0..x]` at `A(I)..A(I + x)`; `I` moves only under `QUIRK_INCREMENT_I`. -/
def Obligations.StoreRegistersFillsTheBlock : Prop :=
  ∀ x : Nibble, decode (0xF#4 ++ x ++ 0x55#8) = .ok (.stRegs x) ∧
    ∀ s : State, ∃ t, exec (.stRegs x) s = .next t ∧
      (∀ k, k ≤ x.toNat → t.readByte (maskAddr (s.i.toNat + k)) = s.reg (BitVec.ofNat 4 k)) ∧
      (s.cfg.incrementI = true → t.i.toNat = (s.i.toNat + x.toNat + 1) % 4096) ∧
      t.pc.toNat = (s.pc.toNat + 2) % 4096 ∧
      OnlyChanges s t (fun q => q = .pc ∨ (s.cfg.incrementI = true ∧ q = .index) ∨
        ∃ k, k ≤ x.toNat ∧ q = .byte (maskAddr (s.i.toNat + k)))

/-- R107: `V[0..x]` from `A(I)..A(I + x)`; the registers above `x` are kept. -/
def Obligations.LoadRegistersReadsTheBlock : Prop :=
  ∀ x : Nibble, decode (0xF#4 ++ x ++ 0x65#8) = .ok (.ldRegs x) ∧
    ∀ s : State, ∃ t, exec (.ldRegs x) s = .next t ∧
      (∀ k, k ≤ x.toNat → t.reg (BitVec.ofNat 4 k) = s.readByte (maskAddr (s.i.toNat + k))) ∧
      (s.cfg.incrementI = true → t.i.toNat = (s.i.toNat + x.toNat + 1) % 4096) ∧
      t.pc.toNat = (s.pc.toNat + 2) % 4096 ∧
      OnlyChanges s t (fun q => q = .pc ∨ (s.cfg.incrementI = true ∧ q = .index) ∨
        ∃ r : Nibble, r.toNat ≤ x.toNat ∧ q = .reg r)

/-- R106, R107: what Fx55 stores, Fx65 loads back at the same `I`, whatever the registers hold in between. -/
def Obligations.StoreThenLoadRestoresRegisters : Prop :=
  ∀ (x : Nibble) (s t : State) (v : Vector Byte 16) (pc : Addr), exec (.stRegs x) s = .next t →
    ∃ u, exec (.ldRegs x) { t with regs := v, i := s.i, pc := pc } = .next u ∧
      ∀ r : Nibble, r.toNat ≤ x.toNat → u.reg r = s.reg r

/-- R34, R46: bytes stored by Fx55 are the word the next fetch of their address sees, the first the high byte. -/
def Obligations.StoredBytesAreFetched : Prop :=
  ∀ (x : Nibble) (s t : State) (k : Nat), exec (.stRegs x) s = .next t → k < x.toNat →
    ({ t with pc := maskAddr (s.i.toNat + k) } : State).fetchWord.toNat =
      (s.reg (BitVec.ofNat 4 k)).toNat * 256 + (s.reg (BitVec.ofNat 4 (k + 1))).toNat

/-! ## Reset and ROM loading -/

/-- R29, R129: what reset leaves; the parameters stay; a new core is in the state its own reset gives. -/
def Obligations.ResetLeavesTheResetState : Prop :=
  State.reset.cfg.Legal ∧ runCommand .reset State.reset = .next (State.reset, .done) ∧
  ∀ s : State, s.cfg.Legal → ∃ t, runCommand .reset s = .next (t, .done) ∧
    (∀ r, t.reg r = 0) ∧ t.i = 0 ∧ t.pc = 0x200 ∧ t.sp = 0 ∧ t.stack = List.replicate s.cfg.stackDepth 0 ∧
    t.dt = 0 ∧ t.st = 0 ∧ (∀ p, t.fb.get p = false) ∧ t.dirty = false ∧ (∀ k, t.key k = false) ∧ t.fsm = .load ∧
    t.waitTarget = 0 ∧ t.fault = ⟨.none, 0, 0⟩ ∧ t.accCpu = 0 ∧ t.accTimer = 0 ∧ t.accFrame = 0 ∧
    (∀ (d : Fin 16) (r : Fin 5),
      t.readByte (BitVec.ofNat 12 (s.cfg.fontBase + 5 * d.val + r.val)) = (s.cfg.fontGlyphs[d.val])[r.val]) ∧
    (∀ a : Addr, a.toNat < s.cfg.fontBase ∨ s.cfg.fontBase + 80 ≤ a.toNat → t.readByte a = 0) ∧
    t.cfg = s.cfg

/-- R43: refused outside `LOAD`; an oversized ROM is a fault with no byte written; else the bytes from 0x200 on. -/
def Obligations.LoadRomCopiesOrRejects : Prop :=
  ∀ (s : State) (data : List Byte),
    (s.fsm ≠ .load → runCommand (.loadRom data) s = .next (s, .refused)) ∧
    (s.fsm = .load → 3584 < data.length →
      ∃ t, runCommand (.loadRom data) s = .next (t, .loadError) ∧ t.fault = ⟨.loadError, 0, 0⟩ ∧ t.fsm = .halt ∧
        OnlyChanges s t (These [.fault, .fsm])) ∧
    (s.fsm = .load → data.length ≤ 3584 →
      ∃ t, runCommand (.loadRom data) s = .next (t, .loaded) ∧
        (∀ (k : Nat) (h : k < data.length), t.readByte (BitVec.ofNat 12 (0x200 + k)) = data[k]) ∧
        OnlyChanges s t (fun q => ∃ k, k < data.length ∧ q = .byte (BitVec.ofNat 12 (0x200 + k))))

/-- Log entry 8 (the model's choice): the word placed is the word the next step fetches, and the core runs. -/
def Obligations.PlacedWordIsFetched : Prop :=
  ∀ (s : State) (w : Word), (s.withFetchWord 16 w.toNat).fetchWord = w ∧ Runs (s.withFetchWord 16 w.toNat) ∧
    (s.withFetchWord 16 w.toNat).inbox = [] ∧ (s.withFetchWord 16 w.toNat).pc = s.pc

/-! ## Timers, clock and outputs (60_exceptions.md) -/

/-- R117: each timer goes down by one, floored at zero; not in `HALT`. -/
def Obligations.TimerTickCountsDown : Prop :=
  ∀ s : State, ∃ t, runCommand .timerTick s = .next (t, .done) ∧
    (s.fsm = .halt → t = s) ∧
    (s.fsm ≠ .halt → t.dt.toNat = s.dt.toNat - 1 ∧ t.st.toNat = s.st.toNat - 1) ∧
    OnlyChanges s t (These [.delay, .sound])

/-- R117, R120: `n` timer ticks waiting take `min(n, DT)` from `DT` and `min(n, ST)` from `ST` in `n` steps. That they
wait in the inbox and that a step takes one is the model's choice (log entry 3). -/
def Obligations.TimerTicksCountDownTogether : Prop :=
  ∀ (n : Nat) (s : State) (rest : List Command), s.fsm ≠ .halt → s.inbox = List.replicate n .timerTick ++ rest →
    ∃ t, Host.Core.run Sys2Proof.core n s = .next t ∧ t.dt.toNat = s.dt.toNat - n ∧ t.st.toNat = s.st.toNat - n ∧
      t.inbox = rest ∧ OnlyChanges s t (These [.delay, .sound, .inbox])

/-- R119: each stream's whole ticks and what it carries; in a key wait the CPU stream is drained. -/
def Obligations.ClockAdvanceCountsTicks : Prop :=
  ∀ (s : State) (e : Nat), 0 < s.cfg.timeQ → ∃ t c m f, runCommand (.clockAdvance e) s = .next (t, .ticks c m f) ∧
    (s.fsm = .waitKey → c = 0 ∧ t.accCpu = 0) ∧
    (s.fsm ≠ .waitKey → c * s.cfg.timeQ + t.accCpu = s.accCpu + e * s.cfg.cpuHz ∧ t.accCpu < s.cfg.timeQ) ∧
    m * s.cfg.timeQ + t.accTimer = s.accTimer + e * 60 ∧ t.accTimer < s.cfg.timeQ ∧
    f * s.cfg.timeQ + t.accFrame = s.accFrame + e * s.cfg.frameHz ∧ t.accFrame < s.cfg.timeQ ∧
    OnlyChanges s t (These [.accCpu, .accTimer, .accFrame])

/-- R120: from an empty accumulator the total of a stream's ticks does not depend on how the time is cut; one second
gives 60 timer ticks. -/
def Obligations.ClockTotalsIgnoreThePartition : Prop :=
  ∀ (s : State) (es : List Nat), 0 < s.cfg.timeQ → ∃ c m f, tickTotals s es = some (c, m, f) ∧
    (s.fsm ≠ .waitKey → s.accCpu = 0 → c = s.cfg.cpuHz * es.sum / s.cfg.timeQ) ∧
    (s.accTimer = 0 → m = 60 * es.sum / s.cfg.timeQ) ∧
    (s.accFrame = 0 → f = s.cfg.frameHz * es.sum / s.cfg.timeQ) ∧
    (s.accTimer = 0 → es.sum = s.cfg.timeQ → m = 60)

/-- R113, R118, R123, R126: what the queries answer and `take_dirty` clears; `dump` gives every element of R13. -/
def Obligations.QueriesAndTakeDirty : Prop :=
  ∀ s : State,
    runCommand .framebuffer s = .next (s, .frame s.fb) ∧
    (∃ b, runCommand .soundActive s = .next (s, .sound b) ∧ (b = true ↔ s.st ≠ 0 ∧ s.fsm ≠ .halt)) ∧
    runCommand .status s = .next (s, .status s.fsm.code s.fault.kind.code s.fault.opcode s.fault.addr) ∧
    (∃ d, runCommand .dump s = .next (s, .dump d) ∧ d.regs = s.regs ∧ d.i = s.i ∧ d.pc = s.pc ∧ d.stack = s.stack ∧
      d.sp = s.sp ∧ d.dt = s.dt ∧ d.st = s.st ∧ (∀ a : Addr, d.mem[a.toNat]'a.isLt = s.readByte a) ∧ d.fb = s.fb ∧
      d.dirty = s.dirty ∧ d.keypad = s.keypad ∧ d.fsm = s.fsm ∧ d.waitTarget = s.waitTarget ∧ d.fault = s.fault ∧
      d.accCpu = s.accCpu ∧ d.accTimer = s.accTimer ∧ d.accFrame = s.accFrame) ∧
    ∃ t, runCommand .takeDirty s = .next (t, .dirty s.dirty) ∧ t.dirty = false ∧ OnlyChanges s t (These [.dirty])

/-! ## Whole-machine rules -/

/-- R30 at reset, with the parameters' legal values. `Inv` also holds the stack's length, legal parameters and canonical
memory, which are the model's (log entries 9, 18 and 11). -/
def Obligations.ResetMeetsTheInvariant : Prop :=
  Inv State.reset ∧ ∀ c : Config, c.Legal → Inv (State.resetWith c)

/-- R30: every command preserves the invariants, with the stack's length, legal parameters and canonical memory, which
are the model's (log entries 9, 18 and 11). -/
def Obligations.EveryCommandKeepsTheInvariant : Prop :=
  ∀ (c : Command) (s t : State) (r : Response), Inv s → runCommand c s = .next (t, r) → Inv t

/-- R30: every step, from every state with the invariant, keeps it. What `Inv` holds beside R30's clauses is the model's
(log entries 9, 18 and 11), and so are the inbox and the step with none waiting (log entries 3 and 4). -/
def Obligations.EveryStepKeepsTheInvariant : Prop :=
  ∀ s t : State, Inv s → step s = .next t → Inv t

/-- R6, R28: no command, and so no instruction, changes the parameters; and what a query answers does not depend on
them, where memory holds the same bytes. -/
def Obligations.ParametersNeverChange : Prop :=
  (∀ (c : Command) (s t : State) (r : Response), runCommand c s = .next (t, r) → t.cfg = s.cfg) ∧
  ∀ (s : State) (c : Config), (∀ a, ({ s with cfg := c } : State).readByte a = s.readByte a) →
    ∀ q ∈ [Command.takeDirty, .framebuffer, .soundActive, .status, .dump], ∃ t u r,
      runCommand q s = .next (t, r) ∧ runCommand q { s with cfg := c } = .next (u, r)

/-- R59: the transitions of `fsm`. A step that leaves `RUN` raised no fault, and one that raised a fault leaves
`HALT`. -/
def Obligations.FsmTransitions : Prop :=
  ∀ (c : Command) (s t : State) (r : Response), runCommand c s = .next (t, r) →
    (c = .reset → t.fsm = .load) ∧
    (∀ data, c = .loadRom data → s.fsm = .load →
      if data.length ≤ 3584 then t.fsm = .load else t.fsm = .halt ∧ t.fault.kind = .loadError) ∧
    (∀ rnd, c = .cpuStep rnd → Runs s →
      (∀ x, decode s.fetchWord = .ok (.ldVxK x) → t.fsm = .waitKey) ∧
      ((∀ x, decode s.fetchWord ≠ .ok (.ldVxK x)) → (t.fsm = .run ∧ t.fault = s.fault) ∨
        (t.fsm = .halt ∧ t.fault.kind ≠ .none ∧ t.fault.opcode = s.fetchWord))) ∧
    (∀ rnd, c = .cpuStep rnd → s.fsm = .waitKey → t = s) ∧
    (∀ code, c = .setKey code true → s.fsm = .waitKey → s.key code = false → t.fsm = .run) ∧
    (s.fsm = .halt → c ≠ .reset → t.fsm = .halt) ∧
    ((s.fsm = .waitKey ∨ ∀ rnd, c ≠ .cpuStep rnd) → c ≠ .reset → (∀ data, c = .loadRom data → s.fsm ≠ .load) →
      (∀ code, c = .setKey code true → s.fsm = .waitKey → s.key code = true) → t.fsm = s.fsm)

/-- R111, R114: in `HALT` a command other than reset changes at most the keypad mirror, the accumulators and `dirty`. -/
def Obligations.HaltKeepsTheStateUntilReset : Prop :=
  ∀ (c : Command) (s t : State) (r : Response), s.fsm = .halt → c ≠ .reset → runCommand c s = .next (t, r) →
    OnlyChanges s t (fun q => q ∈ [.accCpu, .accTimer, .accFrame, .dirty] ∨ ∃ k, q = .key k)

/-- R15: the instructions that change `VF`: the flag writers, and those that name it as a destination. -/
def Obligations.OnlyFlagWritersChangeVF : Prop :=
  ∀ (i : Instr) (s t : State), exec i s = .next t → t.reg 15 ≠ s.reg 15 →
    (∃ x y, i ∈ [.addReg x y, .subReg x y, .shr x y, .subn x y, .shl x y]) ∨ (∃ x y n, i = .drw x y n) ∨
    (∃ x, i = .addI x ∧ s.cfg.addIVf = true) ∨ (∃ nn, i ∈ [.ldImm 15 nn, .addImm 15 nn, .rnd 15 nn]) ∨
    (∃ y, i ∈ [.ldReg 15 y, .orReg 15 y, .andReg 15 y, .xorReg 15 y]) ∨ i ∈ [.ldVxDt 15, .ldRegs 15]

/-- R13, the columns of writers: which instructions change memory, the display, the stack, `I`, the timers and the wait
target; none changes the keypad mirror or the accumulators. -/
def Obligations.OnlyTheListedInstructionsWrite : Prop :=
  ∀ (i : Instr) (s t : State), exec i s = .next t →
    OnlyChanges s t (fun q =>
      match q with
      | .byte _ => ∃ x, i ∈ [.ldB x, .stRegs x]
      | .pixel _ => i = .cls ∨ ∃ x y n, i = .drw x y n
      | .dirty => i = .cls ∨ ∃ x y n, i = .drw x y n
      | .stackEntry _ => ∃ nnn, i = .call nnn
      | .sp => i = .ret ∨ ∃ nnn, i = .call nnn
      | .index => (∃ nnn, i = .ldI nnn) ∨ (∃ x, i ∈ [.addI x, .ldF x]) ∨
          (s.cfg.incrementI = true ∧ ∃ x, i ∈ [.stRegs x, .ldRegs x])
      | .delay => ∃ x, i = .ldDtVx x
      | .sound => ∃ x, i = .ldStVx x
      | .waitTarget => ∃ x, i = .ldVxK x
      | .reg _ => True
      | .pc => True
      | .fsm => True
      | .fault => True
      | .key _ => False
      | .accCpu => False
      | .accTimer => False
      | .accFrame => False
      | .params => False
      | .rnd => False
      | .draws => False
      | .inbox => False)

/-- R8: a command of the host, reset apart, writes no register but a wait's target, never `I`, `pc`, the stack or the
display; the timers only by `timer_tick`, memory only by `load_rom` in `LOAD`. -/
def Obligations.HostCommandsWriteNoRegisters : Prop :=
  ∀ (c : Command) (s t : State) (r : Response), c ≠ .reset → (∀ rnd, c ≠ .cpuStep rnd) →
    runCommand c s = .next (t, r) →
    OnlyChanges s t (fun q =>
      match q with
      | .reg k => k = s.waitTarget ∧ s.fsm = .waitKey ∧ ∃ code, c = .setKey code true
      | .byte _ => s.fsm = .load ∧ ∃ data, c = .loadRom data
      | .delay => c = .timerTick
      | .sound => c = .timerTick
      | .key _ => ∃ code down, c = .setKey code down
      | .fsm => True
      | .fault => ∃ data, c = .loadRom data
      | .dirty => c = .takeDirty
      | .accCpu => ∃ e, c = .clockAdvance e
      | .accTimer => ∃ e, c = .clockAdvance e
      | .accFrame => ∃ e, c = .clockAdvance e
      | .index => False
      | .pc => False
      | .stackEntry _ => False
      | .sp => False
      | .pixel _ => False
      | .waitTarget => False
      | .params => False
      | .rnd => False
      | .draws => False
      | .inbox => False)
end

