-- ==== Sys2Proof/Laws/Decode.lean ====
section
/-! SUPPORT. The fields of a word put together from its parts, in the three shapes of 30_encoding.md R54's patterns. -/

namespace Sys2Proof

/-- The fields of `f x y n` (R50). -/
theorem fields_of_nibbles (f x y n : Nibble) :
    fieldFamily (f ++ x ++ y ++ n) = f ∧ fieldX (f ++ x ++ y ++ n) = x ∧ fieldY (f ++ x ++ y ++ n) = y ∧
      fieldN (f ++ x ++ y ++ n) = n := by
  refine ⟨?_, ?_, ?_, ?_⟩ <;>
  · apply BitVec.eq_of_getElem_eq
    intro i hi
    simp only [fieldFamily, fieldX, fieldY, fieldN, BitVec.getElem_extractLsb', BitVec.getLsbD_append]
    repeat' split
    all_goals first | omega | rw [BitVec.getLsbD_eq_getElem (by omega)]; congr 1; try omega

/-- The fields of `f x nn` (R50). -/
theorem fields_of_byte (f x : Nibble) (nn : Byte) :
    fieldFamily (f ++ x ++ nn) = f ∧ fieldX (f ++ x ++ nn) = x ∧ fieldNn (f ++ x ++ nn) = nn := by
  refine ⟨?_, ?_, ?_⟩ <;>
  · apply BitVec.eq_of_getElem_eq
    intro i hi
    simp only [fieldFamily, fieldX, fieldNn, BitVec.getElem_extractLsb', BitVec.getLsbD_append]
    repeat' split
    all_goals first | omega | rw [BitVec.getLsbD_eq_getElem (by omega)]; congr 1; try omega

/-- The fields of `f nnn` (R50). -/
theorem fields_of_address (f : Nibble) (nnn : Addr) :
    fieldFamily (f ++ nnn) = f ∧ fieldNnn (f ++ nnn) = nnn := by
  refine ⟨?_, ?_⟩ <;>
  · apply BitVec.eq_of_getElem_eq
    intro i hi
    simp only [fieldFamily, fieldNnn, BitVec.getElem_extractLsb', BitVec.getLsbD_append]
    repeat' split
    all_goals first | omega | rw [BitVec.getLsbD_eq_getElem (by omega)]; congr 1; try omega

/-! ## A word is its fields put together -/

theorem word_of_nibbles (w : Word) : fieldFamily w ++ fieldX w ++ fieldY w ++ fieldN w = w := by
  apply BitVec.eq_of_getLsbD_eq
  intro i hi
  simp only [fieldFamily, fieldX, fieldY, fieldN, BitVec.getLsbD_append, BitVec.getLsbD_extractLsb']
  repeat' split
  all_goals rw [decide_eq_true (by omega), Bool.true_and]; congr 1; omega

theorem word_of_byte (w : Word) : fieldFamily w ++ fieldX w ++ fieldNn w = w := by
  apply BitVec.eq_of_getLsbD_eq
  intro i hi
  simp only [fieldFamily, fieldX, fieldNn, BitVec.getLsbD_append, BitVec.getLsbD_extractLsb']
  repeat' split
  all_goals rw [decide_eq_true (by omega), Bool.true_and]; congr 1; omega

theorem word_of_address (w : Word) : fieldFamily w ++ fieldNnn w = w := by
  apply BitVec.eq_of_getLsbD_eq
  intro i hi
  simp only [fieldFamily, fieldNnn, BitVec.getLsbD_append, BitVec.getLsbD_extractLsb']
  repeat' split
  all_goals rw [decide_eq_true (by omega), Bool.true_and]; congr 1; omega

end Sys2Proof
end

