-- ==== Sys2Proof/Laws/State.lean ====
section
/-! SUPPORT. What each update does to each field, by unfolding, so that no proof unfolds a record update; and what the
accessors read after it. -/

namespace Sys2Proof.Machine

variable (s : State)

/-! ## setReg -/

@[simp] theorem State.setReg_i (r : Nibble) (b : Byte) : (s.setReg r b).i = s.i := rfl
@[simp] theorem State.setReg_pc (r : Nibble) (b : Byte) : (s.setReg r b).pc = s.pc := rfl
@[simp] theorem State.setReg_stack (r : Nibble) (b : Byte) : (s.setReg r b).stack = s.stack := rfl
@[simp] theorem State.setReg_sp (r : Nibble) (b : Byte) : (s.setReg r b).sp = s.sp := rfl
@[simp] theorem State.setReg_dt (r : Nibble) (b : Byte) : (s.setReg r b).dt = s.dt := rfl
@[simp] theorem State.setReg_st (r : Nibble) (b : Byte) : (s.setReg r b).st = s.st := rfl
@[simp] theorem State.setReg_mem (r : Nibble) (b : Byte) : (s.setReg r b).mem = s.mem := rfl
@[simp] theorem State.setReg_fb (r : Nibble) (b : Byte) : (s.setReg r b).fb = s.fb := rfl
@[simp] theorem State.setReg_dirty (r : Nibble) (b : Byte) : (s.setReg r b).dirty = s.dirty := rfl
@[simp] theorem State.setReg_keypad (r : Nibble) (b : Byte) : (s.setReg r b).keypad = s.keypad := rfl
@[simp] theorem State.setReg_fsm (r : Nibble) (b : Byte) : (s.setReg r b).fsm = s.fsm := rfl
@[simp] theorem State.setReg_waitTarget (r : Nibble) (b : Byte) : (s.setReg r b).waitTarget = s.waitTarget := rfl
@[simp] theorem State.setReg_fault (r : Nibble) (b : Byte) : (s.setReg r b).fault = s.fault := rfl
@[simp] theorem State.setReg_accCpu (r : Nibble) (b : Byte) : (s.setReg r b).accCpu = s.accCpu := rfl
@[simp] theorem State.setReg_accTimer (r : Nibble) (b : Byte) : (s.setReg r b).accTimer = s.accTimer := rfl
@[simp] theorem State.setReg_accFrame (r : Nibble) (b : Byte) : (s.setReg r b).accFrame = s.accFrame := rfl
@[simp] theorem State.setReg_cfg (r : Nibble) (b : Byte) : (s.setReg r b).cfg = s.cfg := rfl
@[simp] theorem State.setReg_rnd (r : Nibble) (b : Byte) : (s.setReg r b).rnd = s.rnd := rfl
@[simp] theorem State.setReg_draws (r : Nibble) (b : Byte) : (s.setReg r b).draws = s.draws := rfl
@[simp] theorem State.setReg_inbox (r : Nibble) (b : Byte) : (s.setReg r b).inbox = s.inbox := rfl

/-! ## writeByte -/

@[simp] theorem State.writeByte_regs (a : Addr) (v : Byte) : (s.writeByte a v).regs = s.regs := rfl
@[simp] theorem State.writeByte_i (a : Addr) (v : Byte) : (s.writeByte a v).i = s.i := rfl
@[simp] theorem State.writeByte_pc (a : Addr) (v : Byte) : (s.writeByte a v).pc = s.pc := rfl
@[simp] theorem State.writeByte_stack (a : Addr) (v : Byte) : (s.writeByte a v).stack = s.stack := rfl
@[simp] theorem State.writeByte_sp (a : Addr) (v : Byte) : (s.writeByte a v).sp = s.sp := rfl
@[simp] theorem State.writeByte_dt (a : Addr) (v : Byte) : (s.writeByte a v).dt = s.dt := rfl
@[simp] theorem State.writeByte_st (a : Addr) (v : Byte) : (s.writeByte a v).st = s.st := rfl
@[simp] theorem State.writeByte_mem (a : Addr) (v : Byte) : (s.writeByte a v).mem = Memory.write s.cfg s.mem a.toNat v := rfl
@[simp] theorem State.writeByte_fb (a : Addr) (v : Byte) : (s.writeByte a v).fb = s.fb := rfl
@[simp] theorem State.writeByte_dirty (a : Addr) (v : Byte) : (s.writeByte a v).dirty = s.dirty := rfl
@[simp] theorem State.writeByte_keypad (a : Addr) (v : Byte) : (s.writeByte a v).keypad = s.keypad := rfl
@[simp] theorem State.writeByte_fsm (a : Addr) (v : Byte) : (s.writeByte a v).fsm = s.fsm := rfl
@[simp] theorem State.writeByte_waitTarget (a : Addr) (v : Byte) : (s.writeByte a v).waitTarget = s.waitTarget := rfl
@[simp] theorem State.writeByte_fault (a : Addr) (v : Byte) : (s.writeByte a v).fault = s.fault := rfl
@[simp] theorem State.writeByte_accCpu (a : Addr) (v : Byte) : (s.writeByte a v).accCpu = s.accCpu := rfl
@[simp] theorem State.writeByte_accTimer (a : Addr) (v : Byte) : (s.writeByte a v).accTimer = s.accTimer := rfl
@[simp] theorem State.writeByte_accFrame (a : Addr) (v : Byte) : (s.writeByte a v).accFrame = s.accFrame := rfl
@[simp] theorem State.writeByte_cfg (a : Addr) (v : Byte) : (s.writeByte a v).cfg = s.cfg := rfl
@[simp] theorem State.writeByte_rnd (a : Addr) (v : Byte) : (s.writeByte a v).rnd = s.rnd := rfl
@[simp] theorem State.writeByte_draws (a : Addr) (v : Byte) : (s.writeByte a v).draws = s.draws := rfl
@[simp] theorem State.writeByte_inbox (a : Addr) (v : Byte) : (s.writeByte a v).inbox = s.inbox := rfl

/-! ## setI -/

@[simp] theorem State.setI_regs (e : Nat) : (s.setI e).regs = s.regs := rfl
@[simp] theorem State.setI_i (e : Nat) : (s.setI e).i = maskIndex e := rfl
@[simp] theorem State.setI_pc (e : Nat) : (s.setI e).pc = s.pc := rfl
@[simp] theorem State.setI_stack (e : Nat) : (s.setI e).stack = s.stack := rfl
@[simp] theorem State.setI_sp (e : Nat) : (s.setI e).sp = s.sp := rfl
@[simp] theorem State.setI_dt (e : Nat) : (s.setI e).dt = s.dt := rfl
@[simp] theorem State.setI_st (e : Nat) : (s.setI e).st = s.st := rfl
@[simp] theorem State.setI_mem (e : Nat) : (s.setI e).mem = s.mem := rfl
@[simp] theorem State.setI_fb (e : Nat) : (s.setI e).fb = s.fb := rfl
@[simp] theorem State.setI_dirty (e : Nat) : (s.setI e).dirty = s.dirty := rfl
@[simp] theorem State.setI_keypad (e : Nat) : (s.setI e).keypad = s.keypad := rfl
@[simp] theorem State.setI_fsm (e : Nat) : (s.setI e).fsm = s.fsm := rfl
@[simp] theorem State.setI_waitTarget (e : Nat) : (s.setI e).waitTarget = s.waitTarget := rfl
@[simp] theorem State.setI_fault (e : Nat) : (s.setI e).fault = s.fault := rfl
@[simp] theorem State.setI_accCpu (e : Nat) : (s.setI e).accCpu = s.accCpu := rfl
@[simp] theorem State.setI_accTimer (e : Nat) : (s.setI e).accTimer = s.accTimer := rfl
@[simp] theorem State.setI_accFrame (e : Nat) : (s.setI e).accFrame = s.accFrame := rfl
@[simp] theorem State.setI_cfg (e : Nat) : (s.setI e).cfg = s.cfg := rfl
@[simp] theorem State.setI_rnd (e : Nat) : (s.setI e).rnd = s.rnd := rfl
@[simp] theorem State.setI_draws (e : Nat) : (s.setI e).draws = s.draws := rfl
@[simp] theorem State.setI_inbox (e : Nat) : (s.setI e).inbox = s.inbox := rfl

/-! ## setPc -/

@[simp] theorem State.setPc_regs (a : Addr) : (s.setPc a).regs = s.regs := rfl
@[simp] theorem State.setPc_i (a : Addr) : (s.setPc a).i = s.i := rfl
@[simp] theorem State.setPc_pc (a : Addr) : (s.setPc a).pc = a := rfl
@[simp] theorem State.setPc_stack (a : Addr) : (s.setPc a).stack = s.stack := rfl
@[simp] theorem State.setPc_sp (a : Addr) : (s.setPc a).sp = s.sp := rfl
@[simp] theorem State.setPc_dt (a : Addr) : (s.setPc a).dt = s.dt := rfl
@[simp] theorem State.setPc_st (a : Addr) : (s.setPc a).st = s.st := rfl
@[simp] theorem State.setPc_mem (a : Addr) : (s.setPc a).mem = s.mem := rfl
@[simp] theorem State.setPc_fb (a : Addr) : (s.setPc a).fb = s.fb := rfl
@[simp] theorem State.setPc_dirty (a : Addr) : (s.setPc a).dirty = s.dirty := rfl
@[simp] theorem State.setPc_keypad (a : Addr) : (s.setPc a).keypad = s.keypad := rfl
@[simp] theorem State.setPc_fsm (a : Addr) : (s.setPc a).fsm = s.fsm := rfl
@[simp] theorem State.setPc_waitTarget (a : Addr) : (s.setPc a).waitTarget = s.waitTarget := rfl
@[simp] theorem State.setPc_fault (a : Addr) : (s.setPc a).fault = s.fault := rfl
@[simp] theorem State.setPc_accCpu (a : Addr) : (s.setPc a).accCpu = s.accCpu := rfl
@[simp] theorem State.setPc_accTimer (a : Addr) : (s.setPc a).accTimer = s.accTimer := rfl
@[simp] theorem State.setPc_accFrame (a : Addr) : (s.setPc a).accFrame = s.accFrame := rfl
@[simp] theorem State.setPc_cfg (a : Addr) : (s.setPc a).cfg = s.cfg := rfl
@[simp] theorem State.setPc_rnd (a : Addr) : (s.setPc a).rnd = s.rnd := rfl
@[simp] theorem State.setPc_draws (a : Addr) : (s.setPc a).draws = s.draws := rfl
@[simp] theorem State.setPc_inbox (a : Addr) : (s.setPc a).inbox = s.inbox := rfl

/-! ## setDt -/

@[simp] theorem State.setDt_regs (b : Byte) : (s.setDt b).regs = s.regs := rfl
@[simp] theorem State.setDt_i (b : Byte) : (s.setDt b).i = s.i := rfl
@[simp] theorem State.setDt_pc (b : Byte) : (s.setDt b).pc = s.pc := rfl
@[simp] theorem State.setDt_stack (b : Byte) : (s.setDt b).stack = s.stack := rfl
@[simp] theorem State.setDt_sp (b : Byte) : (s.setDt b).sp = s.sp := rfl
@[simp] theorem State.setDt_dt (b : Byte) : (s.setDt b).dt = b := rfl
@[simp] theorem State.setDt_st (b : Byte) : (s.setDt b).st = s.st := rfl
@[simp] theorem State.setDt_mem (b : Byte) : (s.setDt b).mem = s.mem := rfl
@[simp] theorem State.setDt_fb (b : Byte) : (s.setDt b).fb = s.fb := rfl
@[simp] theorem State.setDt_dirty (b : Byte) : (s.setDt b).dirty = s.dirty := rfl
@[simp] theorem State.setDt_keypad (b : Byte) : (s.setDt b).keypad = s.keypad := rfl
@[simp] theorem State.setDt_fsm (b : Byte) : (s.setDt b).fsm = s.fsm := rfl
@[simp] theorem State.setDt_waitTarget (b : Byte) : (s.setDt b).waitTarget = s.waitTarget := rfl
@[simp] theorem State.setDt_fault (b : Byte) : (s.setDt b).fault = s.fault := rfl
@[simp] theorem State.setDt_accCpu (b : Byte) : (s.setDt b).accCpu = s.accCpu := rfl
@[simp] theorem State.setDt_accTimer (b : Byte) : (s.setDt b).accTimer = s.accTimer := rfl
@[simp] theorem State.setDt_accFrame (b : Byte) : (s.setDt b).accFrame = s.accFrame := rfl
@[simp] theorem State.setDt_cfg (b : Byte) : (s.setDt b).cfg = s.cfg := rfl
@[simp] theorem State.setDt_rnd (b : Byte) : (s.setDt b).rnd = s.rnd := rfl
@[simp] theorem State.setDt_draws (b : Byte) : (s.setDt b).draws = s.draws := rfl
@[simp] theorem State.setDt_inbox (b : Byte) : (s.setDt b).inbox = s.inbox := rfl

/-! ## setSt -/

@[simp] theorem State.setSt_regs (b : Byte) : (s.setSt b).regs = s.regs := rfl
@[simp] theorem State.setSt_i (b : Byte) : (s.setSt b).i = s.i := rfl
@[simp] theorem State.setSt_pc (b : Byte) : (s.setSt b).pc = s.pc := rfl
@[simp] theorem State.setSt_stack (b : Byte) : (s.setSt b).stack = s.stack := rfl
@[simp] theorem State.setSt_sp (b : Byte) : (s.setSt b).sp = s.sp := rfl
@[simp] theorem State.setSt_dt (b : Byte) : (s.setSt b).dt = s.dt := rfl
@[simp] theorem State.setSt_st (b : Byte) : (s.setSt b).st = b := rfl
@[simp] theorem State.setSt_mem (b : Byte) : (s.setSt b).mem = s.mem := rfl
@[simp] theorem State.setSt_fb (b : Byte) : (s.setSt b).fb = s.fb := rfl
@[simp] theorem State.setSt_dirty (b : Byte) : (s.setSt b).dirty = s.dirty := rfl
@[simp] theorem State.setSt_keypad (b : Byte) : (s.setSt b).keypad = s.keypad := rfl
@[simp] theorem State.setSt_fsm (b : Byte) : (s.setSt b).fsm = s.fsm := rfl
@[simp] theorem State.setSt_waitTarget (b : Byte) : (s.setSt b).waitTarget = s.waitTarget := rfl
@[simp] theorem State.setSt_fault (b : Byte) : (s.setSt b).fault = s.fault := rfl
@[simp] theorem State.setSt_accCpu (b : Byte) : (s.setSt b).accCpu = s.accCpu := rfl
@[simp] theorem State.setSt_accTimer (b : Byte) : (s.setSt b).accTimer = s.accTimer := rfl
@[simp] theorem State.setSt_accFrame (b : Byte) : (s.setSt b).accFrame = s.accFrame := rfl
@[simp] theorem State.setSt_cfg (b : Byte) : (s.setSt b).cfg = s.cfg := rfl
@[simp] theorem State.setSt_rnd (b : Byte) : (s.setSt b).rnd = s.rnd := rfl
@[simp] theorem State.setSt_draws (b : Byte) : (s.setSt b).draws = s.draws := rfl
@[simp] theorem State.setSt_inbox (b : Byte) : (s.setSt b).inbox = s.inbox := rfl

/-! ## push -/

@[simp] theorem State.push_regs (a : Addr) : (s.push a).regs = s.regs := rfl
@[simp] theorem State.push_i (a : Addr) : (s.push a).i = s.i := rfl
@[simp] theorem State.push_pc (a : Addr) : (s.push a).pc = s.pc := rfl
@[simp] theorem State.push_stack (a : Addr) : (s.push a).stack = s.stack.set s.sp a := rfl
@[simp] theorem State.push_sp (a : Addr) : (s.push a).sp = s.sp + 1 := rfl
@[simp] theorem State.push_dt (a : Addr) : (s.push a).dt = s.dt := rfl
@[simp] theorem State.push_st (a : Addr) : (s.push a).st = s.st := rfl
@[simp] theorem State.push_mem (a : Addr) : (s.push a).mem = s.mem := rfl
@[simp] theorem State.push_fb (a : Addr) : (s.push a).fb = s.fb := rfl
@[simp] theorem State.push_dirty (a : Addr) : (s.push a).dirty = s.dirty := rfl
@[simp] theorem State.push_keypad (a : Addr) : (s.push a).keypad = s.keypad := rfl
@[simp] theorem State.push_fsm (a : Addr) : (s.push a).fsm = s.fsm := rfl
@[simp] theorem State.push_waitTarget (a : Addr) : (s.push a).waitTarget = s.waitTarget := rfl
@[simp] theorem State.push_fault (a : Addr) : (s.push a).fault = s.fault := rfl
@[simp] theorem State.push_accCpu (a : Addr) : (s.push a).accCpu = s.accCpu := rfl
@[simp] theorem State.push_accTimer (a : Addr) : (s.push a).accTimer = s.accTimer := rfl
@[simp] theorem State.push_accFrame (a : Addr) : (s.push a).accFrame = s.accFrame := rfl
@[simp] theorem State.push_cfg (a : Addr) : (s.push a).cfg = s.cfg := rfl
@[simp] theorem State.push_rnd (a : Addr) : (s.push a).rnd = s.rnd := rfl
@[simp] theorem State.push_draws (a : Addr) : (s.push a).draws = s.draws := rfl
@[simp] theorem State.push_inbox (a : Addr) : (s.push a).inbox = s.inbox := rfl

/-! ## pop -/

@[simp] theorem State.pop_regs : s.pop.regs = s.regs := rfl
@[simp] theorem State.pop_i : s.pop.i = s.i := rfl
@[simp] theorem State.pop_pc : s.pop.pc = s.pc := rfl
@[simp] theorem State.pop_stack : s.pop.stack = s.stack := rfl
@[simp] theorem State.pop_sp : s.pop.sp = s.sp - 1 := rfl
@[simp] theorem State.pop_dt : s.pop.dt = s.dt := rfl
@[simp] theorem State.pop_st : s.pop.st = s.st := rfl
@[simp] theorem State.pop_mem : s.pop.mem = s.mem := rfl
@[simp] theorem State.pop_fb : s.pop.fb = s.fb := rfl
@[simp] theorem State.pop_dirty : s.pop.dirty = s.dirty := rfl
@[simp] theorem State.pop_keypad : s.pop.keypad = s.keypad := rfl
@[simp] theorem State.pop_fsm : s.pop.fsm = s.fsm := rfl
@[simp] theorem State.pop_waitTarget : s.pop.waitTarget = s.waitTarget := rfl
@[simp] theorem State.pop_fault : s.pop.fault = s.fault := rfl
@[simp] theorem State.pop_accCpu : s.pop.accCpu = s.accCpu := rfl
@[simp] theorem State.pop_accTimer : s.pop.accTimer = s.accTimer := rfl
@[simp] theorem State.pop_accFrame : s.pop.accFrame = s.accFrame := rfl
@[simp] theorem State.pop_cfg : s.pop.cfg = s.cfg := rfl
@[simp] theorem State.pop_rnd : s.pop.rnd = s.rnd := rfl
@[simp] theorem State.pop_draws : s.pop.draws = s.draws := rfl
@[simp] theorem State.pop_inbox : s.pop.inbox = s.inbox := rfl

/-! ## setFb -/

@[simp] theorem State.setFb_regs (f : Framebuffer) : (s.setFb f).regs = s.regs := rfl
@[simp] theorem State.setFb_i (f : Framebuffer) : (s.setFb f).i = s.i := rfl
@[simp] theorem State.setFb_pc (f : Framebuffer) : (s.setFb f).pc = s.pc := rfl
@[simp] theorem State.setFb_stack (f : Framebuffer) : (s.setFb f).stack = s.stack := rfl
@[simp] theorem State.setFb_sp (f : Framebuffer) : (s.setFb f).sp = s.sp := rfl
@[simp] theorem State.setFb_dt (f : Framebuffer) : (s.setFb f).dt = s.dt := rfl
@[simp] theorem State.setFb_st (f : Framebuffer) : (s.setFb f).st = s.st := rfl
@[simp] theorem State.setFb_mem (f : Framebuffer) : (s.setFb f).mem = s.mem := rfl
@[simp] theorem State.setFb_fb (f : Framebuffer) : (s.setFb f).fb = f := rfl
@[simp] theorem State.setFb_dirty (f : Framebuffer) : (s.setFb f).dirty = true := rfl
@[simp] theorem State.setFb_keypad (f : Framebuffer) : (s.setFb f).keypad = s.keypad := rfl
@[simp] theorem State.setFb_fsm (f : Framebuffer) : (s.setFb f).fsm = s.fsm := rfl
@[simp] theorem State.setFb_waitTarget (f : Framebuffer) : (s.setFb f).waitTarget = s.waitTarget := rfl
@[simp] theorem State.setFb_fault (f : Framebuffer) : (s.setFb f).fault = s.fault := rfl
@[simp] theorem State.setFb_accCpu (f : Framebuffer) : (s.setFb f).accCpu = s.accCpu := rfl
@[simp] theorem State.setFb_accTimer (f : Framebuffer) : (s.setFb f).accTimer = s.accTimer := rfl
@[simp] theorem State.setFb_accFrame (f : Framebuffer) : (s.setFb f).accFrame = s.accFrame := rfl
@[simp] theorem State.setFb_cfg (f : Framebuffer) : (s.setFb f).cfg = s.cfg := rfl
@[simp] theorem State.setFb_rnd (f : Framebuffer) : (s.setFb f).rnd = s.rnd := rfl
@[simp] theorem State.setFb_draws (f : Framebuffer) : (s.setFb f).draws = s.draws := rfl
@[simp] theorem State.setFb_inbox (f : Framebuffer) : (s.setFb f).inbox = s.inbox := rfl

/-! ## setKeyBit -/

@[simp] theorem State.setKeyBit_regs (k : Nibble) (d : Bool) : (s.setKeyBit k d).regs = s.regs := rfl
@[simp] theorem State.setKeyBit_i (k : Nibble) (d : Bool) : (s.setKeyBit k d).i = s.i := rfl
@[simp] theorem State.setKeyBit_pc (k : Nibble) (d : Bool) : (s.setKeyBit k d).pc = s.pc := rfl
@[simp] theorem State.setKeyBit_stack (k : Nibble) (d : Bool) : (s.setKeyBit k d).stack = s.stack := rfl
@[simp] theorem State.setKeyBit_sp (k : Nibble) (d : Bool) : (s.setKeyBit k d).sp = s.sp := rfl
@[simp] theorem State.setKeyBit_dt (k : Nibble) (d : Bool) : (s.setKeyBit k d).dt = s.dt := rfl
@[simp] theorem State.setKeyBit_st (k : Nibble) (d : Bool) : (s.setKeyBit k d).st = s.st := rfl
@[simp] theorem State.setKeyBit_mem (k : Nibble) (d : Bool) : (s.setKeyBit k d).mem = s.mem := rfl
@[simp] theorem State.setKeyBit_fb (k : Nibble) (d : Bool) : (s.setKeyBit k d).fb = s.fb := rfl
@[simp] theorem State.setKeyBit_dirty (k : Nibble) (d : Bool) : (s.setKeyBit k d).dirty = s.dirty := rfl
@[simp] theorem State.setKeyBit_fsm (k : Nibble) (d : Bool) : (s.setKeyBit k d).fsm = s.fsm := rfl
@[simp] theorem State.setKeyBit_waitTarget (k : Nibble) (d : Bool) : (s.setKeyBit k d).waitTarget = s.waitTarget := rfl
@[simp] theorem State.setKeyBit_fault (k : Nibble) (d : Bool) : (s.setKeyBit k d).fault = s.fault := rfl
@[simp] theorem State.setKeyBit_accCpu (k : Nibble) (d : Bool) : (s.setKeyBit k d).accCpu = s.accCpu := rfl
@[simp] theorem State.setKeyBit_accTimer (k : Nibble) (d : Bool) : (s.setKeyBit k d).accTimer = s.accTimer := rfl
@[simp] theorem State.setKeyBit_accFrame (k : Nibble) (d : Bool) : (s.setKeyBit k d).accFrame = s.accFrame := rfl
@[simp] theorem State.setKeyBit_cfg (k : Nibble) (d : Bool) : (s.setKeyBit k d).cfg = s.cfg := rfl
@[simp] theorem State.setKeyBit_rnd (k : Nibble) (d : Bool) : (s.setKeyBit k d).rnd = s.rnd := rfl
@[simp] theorem State.setKeyBit_draws (k : Nibble) (d : Bool) : (s.setKeyBit k d).draws = s.draws := rfl
@[simp] theorem State.setKeyBit_inbox (k : Nibble) (d : Bool) : (s.setKeyBit k d).inbox = s.inbox := rfl

/-! ## beginWait -/

@[simp] theorem State.beginWait_regs (x : Nibble) : (s.beginWait x).regs = s.regs := rfl
@[simp] theorem State.beginWait_i (x : Nibble) : (s.beginWait x).i = s.i := rfl
@[simp] theorem State.beginWait_pc (x : Nibble) : (s.beginWait x).pc = s.pc := rfl
@[simp] theorem State.beginWait_stack (x : Nibble) : (s.beginWait x).stack = s.stack := rfl
@[simp] theorem State.beginWait_sp (x : Nibble) : (s.beginWait x).sp = s.sp := rfl
@[simp] theorem State.beginWait_dt (x : Nibble) : (s.beginWait x).dt = s.dt := rfl
@[simp] theorem State.beginWait_st (x : Nibble) : (s.beginWait x).st = s.st := rfl
@[simp] theorem State.beginWait_mem (x : Nibble) : (s.beginWait x).mem = s.mem := rfl
@[simp] theorem State.beginWait_fb (x : Nibble) : (s.beginWait x).fb = s.fb := rfl
@[simp] theorem State.beginWait_dirty (x : Nibble) : (s.beginWait x).dirty = s.dirty := rfl
@[simp] theorem State.beginWait_keypad (x : Nibble) : (s.beginWait x).keypad = s.keypad := rfl
@[simp] theorem State.beginWait_fsm (x : Nibble) : (s.beginWait x).fsm = .waitKey := rfl
@[simp] theorem State.beginWait_waitTarget (x : Nibble) : (s.beginWait x).waitTarget = x := rfl
@[simp] theorem State.beginWait_fault (x : Nibble) : (s.beginWait x).fault = s.fault := rfl
@[simp] theorem State.beginWait_accCpu (x : Nibble) : (s.beginWait x).accCpu = s.accCpu := rfl
@[simp] theorem State.beginWait_accTimer (x : Nibble) : (s.beginWait x).accTimer = s.accTimer := rfl
@[simp] theorem State.beginWait_accFrame (x : Nibble) : (s.beginWait x).accFrame = s.accFrame := rfl
@[simp] theorem State.beginWait_cfg (x : Nibble) : (s.beginWait x).cfg = s.cfg := rfl
@[simp] theorem State.beginWait_rnd (x : Nibble) : (s.beginWait x).rnd = s.rnd := rfl
@[simp] theorem State.beginWait_draws (x : Nibble) : (s.beginWait x).draws = s.draws := rfl
@[simp] theorem State.beginWait_inbox (x : Nibble) : (s.beginWait x).inbox = s.inbox := rfl

/-! ## takeFault -/

@[simp] theorem State.takeFault_regs (k : FaultKind) (o : Word) (a : Addr) : (s.takeFault k o a).regs = s.regs := rfl
@[simp] theorem State.takeFault_i (k : FaultKind) (o : Word) (a : Addr) : (s.takeFault k o a).i = s.i := rfl
@[simp] theorem State.takeFault_pc (k : FaultKind) (o : Word) (a : Addr) : (s.takeFault k o a).pc = s.pc := rfl
@[simp] theorem State.takeFault_stack (k : FaultKind) (o : Word) (a : Addr) : (s.takeFault k o a).stack = s.stack := rfl
@[simp] theorem State.takeFault_sp (k : FaultKind) (o : Word) (a : Addr) : (s.takeFault k o a).sp = s.sp := rfl
@[simp] theorem State.takeFault_dt (k : FaultKind) (o : Word) (a : Addr) : (s.takeFault k o a).dt = s.dt := rfl
@[simp] theorem State.takeFault_st (k : FaultKind) (o : Word) (a : Addr) : (s.takeFault k o a).st = s.st := rfl
@[simp] theorem State.takeFault_mem (k : FaultKind) (o : Word) (a : Addr) : (s.takeFault k o a).mem = s.mem := rfl
@[simp] theorem State.takeFault_fb (k : FaultKind) (o : Word) (a : Addr) : (s.takeFault k o a).fb = s.fb := rfl
@[simp] theorem State.takeFault_dirty (k : FaultKind) (o : Word) (a : Addr) : (s.takeFault k o a).dirty = s.dirty := rfl
@[simp] theorem State.takeFault_keypad (k : FaultKind) (o : Word) (a : Addr) : (s.takeFault k o a).keypad = s.keypad := rfl
@[simp] theorem State.takeFault_fsm (k : FaultKind) (o : Word) (a : Addr) : (s.takeFault k o a).fsm = .halt := rfl
@[simp] theorem State.takeFault_waitTarget (k : FaultKind) (o : Word) (a : Addr) : (s.takeFault k o a).waitTarget = s.waitTarget := rfl
@[simp] theorem State.takeFault_fault (k : FaultKind) (o : Word) (a : Addr) : (s.takeFault k o a).fault = ⟨k, o, a⟩ := rfl
@[simp] theorem State.takeFault_accCpu (k : FaultKind) (o : Word) (a : Addr) : (s.takeFault k o a).accCpu = s.accCpu := rfl
@[simp] theorem State.takeFault_accTimer (k : FaultKind) (o : Word) (a : Addr) : (s.takeFault k o a).accTimer = s.accTimer := rfl
@[simp] theorem State.takeFault_accFrame (k : FaultKind) (o : Word) (a : Addr) : (s.takeFault k o a).accFrame = s.accFrame := rfl
@[simp] theorem State.takeFault_cfg (k : FaultKind) (o : Word) (a : Addr) : (s.takeFault k o a).cfg = s.cfg := rfl
@[simp] theorem State.takeFault_rnd (k : FaultKind) (o : Word) (a : Addr) : (s.takeFault k o a).rnd = s.rnd := rfl
@[simp] theorem State.takeFault_draws (k : FaultKind) (o : Word) (a : Addr) : (s.takeFault k o a).draws = s.draws := rfl
@[simp] theorem State.takeFault_inbox (k : FaultKind) (o : Word) (a : Addr) : (s.takeFault k o a).inbox = s.inbox := rfl

/-! ## beginStep -/

@[simp] theorem State.beginStep_regs (b : Byte) : (s.beginStep b).regs = s.regs := rfl
@[simp] theorem State.beginStep_i (b : Byte) : (s.beginStep b).i = s.i := rfl
@[simp] theorem State.beginStep_pc (b : Byte) : (s.beginStep b).pc = s.pc := rfl
@[simp] theorem State.beginStep_stack (b : Byte) : (s.beginStep b).stack = s.stack := rfl
@[simp] theorem State.beginStep_sp (b : Byte) : (s.beginStep b).sp = s.sp := rfl
@[simp] theorem State.beginStep_dt (b : Byte) : (s.beginStep b).dt = s.dt := rfl
@[simp] theorem State.beginStep_st (b : Byte) : (s.beginStep b).st = s.st := rfl
@[simp] theorem State.beginStep_mem (b : Byte) : (s.beginStep b).mem = s.mem := rfl
@[simp] theorem State.beginStep_fb (b : Byte) : (s.beginStep b).fb = s.fb := rfl
@[simp] theorem State.beginStep_dirty (b : Byte) : (s.beginStep b).dirty = s.dirty := rfl
@[simp] theorem State.beginStep_keypad (b : Byte) : (s.beginStep b).keypad = s.keypad := rfl
@[simp] theorem State.beginStep_fsm (b : Byte) : (s.beginStep b).fsm = .run := rfl
@[simp] theorem State.beginStep_waitTarget (b : Byte) : (s.beginStep b).waitTarget = s.waitTarget := rfl
@[simp] theorem State.beginStep_fault (b : Byte) : (s.beginStep b).fault = s.fault := rfl
@[simp] theorem State.beginStep_accCpu (b : Byte) : (s.beginStep b).accCpu = s.accCpu := rfl
@[simp] theorem State.beginStep_accTimer (b : Byte) : (s.beginStep b).accTimer = s.accTimer := rfl
@[simp] theorem State.beginStep_accFrame (b : Byte) : (s.beginStep b).accFrame = s.accFrame := rfl
@[simp] theorem State.beginStep_cfg (b : Byte) : (s.beginStep b).cfg = s.cfg := rfl
@[simp] theorem State.beginStep_rnd (b : Byte) : (s.beginStep b).rnd = b := rfl
@[simp] theorem State.beginStep_draws (b : Byte) : (s.beginStep b).draws = s.draws + 1 := rfl
@[simp] theorem State.beginStep_inbox (b : Byte) : (s.beginStep b).inbox = s.inbox := rfl

/-! ## Accessors after updates -/

@[simp] theorem State.reg_setReg (r q : Nibble) (b : Byte) :
    (s.setReg r b).reg q = if r = q then b else s.reg q := by
  simp [State.reg, State.setReg, Vector.getElem_set, BitVec.toNat_inj]

@[simp] theorem State.key_setKeyBit (k q : Nibble) (d : Bool) :
    (s.setKeyBit k d).key q = if k = q then d else s.key q := by
  simp [State.key, State.setKeyBit, Vector.getElem_set, BitVec.toNat_inj]

/-- The registers are what `reg` reads. -/
theorem State.reg_congr {s t : State} (h : t.regs = s.regs) (r : Nibble) : t.reg r = s.reg r := by
  simp [State.reg, h]

/-- The keys are what `key` reads. -/
theorem State.key_congr {s t : State} (h : t.keypad = s.keypad) (k : Nibble) : t.key k = s.key k := by
  simp [State.key, h]

/-- A byte is read from memory and the parameters alone. -/
theorem State.readByte_congr {s t : State} (hm : t.mem = s.mem) (hc : t.cfg = s.cfg) (a : Addr) :
    t.readByte a = s.readByte a := by
  simp [State.readByte, hm, hc]

/-- A stack entry is read from the stack alone. -/
theorem State.stackAt_congr {s t : State} (h : t.stack = s.stack) (k : Nat) : t.stackAt k = s.stackAt k := by
  simp [State.stackAt, h]

@[simp] theorem State.key_setReg (r : Nibble) (b : Byte) (q : Nibble) : (s.setReg r b).key q = s.key q := rfl
@[simp] theorem State.readByte_setReg (r : Nibble) (b : Byte) (q : Addr) : (s.setReg r b).readByte q = s.readByte q := rfl
@[simp] theorem State.stackAt_setReg (r : Nibble) (b : Byte) (q : Nat) : (s.setReg r b).stackAt q = s.stackAt q := rfl
@[simp] theorem State.reg_writeByte (a : Addr) (v : Byte) (q : Nibble) : (s.writeByte a v).reg q = s.reg q := rfl
@[simp] theorem State.key_writeByte (a : Addr) (v : Byte) (q : Nibble) : (s.writeByte a v).key q = s.key q := rfl
@[simp] theorem State.stackAt_writeByte (a : Addr) (v : Byte) (q : Nat) : (s.writeByte a v).stackAt q = s.stackAt q := rfl
@[simp] theorem State.reg_setI (e : Nat) (q : Nibble) : (s.setI e).reg q = s.reg q := rfl
@[simp] theorem State.key_setI (e : Nat) (q : Nibble) : (s.setI e).key q = s.key q := rfl
@[simp] theorem State.readByte_setI (e : Nat) (q : Addr) : (s.setI e).readByte q = s.readByte q := rfl
@[simp] theorem State.stackAt_setI (e : Nat) (q : Nat) : (s.setI e).stackAt q = s.stackAt q := rfl
@[simp] theorem State.reg_setPc (a : Addr) (q : Nibble) : (s.setPc a).reg q = s.reg q := rfl
@[simp] theorem State.key_setPc (a : Addr) (q : Nibble) : (s.setPc a).key q = s.key q := rfl
@[simp] theorem State.readByte_setPc (a : Addr) (q : Addr) : (s.setPc a).readByte q = s.readByte q := rfl
@[simp] theorem State.stackAt_setPc (a : Addr) (q : Nat) : (s.setPc a).stackAt q = s.stackAt q := rfl
@[simp] theorem State.reg_setDt (b : Byte) (q : Nibble) : (s.setDt b).reg q = s.reg q := rfl
@[simp] theorem State.key_setDt (b : Byte) (q : Nibble) : (s.setDt b).key q = s.key q := rfl
@[simp] theorem State.readByte_setDt (b : Byte) (q : Addr) : (s.setDt b).readByte q = s.readByte q := rfl
@[simp] theorem State.stackAt_setDt (b : Byte) (q : Nat) : (s.setDt b).stackAt q = s.stackAt q := rfl
@[simp] theorem State.reg_setSt (b : Byte) (q : Nibble) : (s.setSt b).reg q = s.reg q := rfl
@[simp] theorem State.key_setSt (b : Byte) (q : Nibble) : (s.setSt b).key q = s.key q := rfl
@[simp] theorem State.readByte_setSt (b : Byte) (q : Addr) : (s.setSt b).readByte q = s.readByte q := rfl
@[simp] theorem State.stackAt_setSt (b : Byte) (q : Nat) : (s.setSt b).stackAt q = s.stackAt q := rfl
@[simp] theorem State.reg_push (a : Addr) (q : Nibble) : (s.push a).reg q = s.reg q := rfl
@[simp] theorem State.key_push (a : Addr) (q : Nibble) : (s.push a).key q = s.key q := rfl
@[simp] theorem State.readByte_push (a : Addr) (q : Addr) : (s.push a).readByte q = s.readByte q := rfl
@[simp] theorem State.reg_pop (q : Nibble) : s.pop.reg q = s.reg q := rfl
@[simp] theorem State.key_pop (q : Nibble) : s.pop.key q = s.key q := rfl
@[simp] theorem State.readByte_pop (q : Addr) : s.pop.readByte q = s.readByte q := rfl
@[simp] theorem State.stackAt_pop (q : Nat) : s.pop.stackAt q = s.stackAt q := rfl
@[simp] theorem State.reg_setFb (f : Framebuffer) (q : Nibble) : (s.setFb f).reg q = s.reg q := rfl
@[simp] theorem State.key_setFb (f : Framebuffer) (q : Nibble) : (s.setFb f).key q = s.key q := rfl
@[simp] theorem State.readByte_setFb (f : Framebuffer) (q : Addr) : (s.setFb f).readByte q = s.readByte q := rfl
@[simp] theorem State.stackAt_setFb (f : Framebuffer) (q : Nat) : (s.setFb f).stackAt q = s.stackAt q := rfl
@[simp] theorem State.reg_setKeyBit (k : Nibble) (d : Bool) (q : Nibble) : (s.setKeyBit k d).reg q = s.reg q := rfl
@[simp] theorem State.readByte_setKeyBit (k : Nibble) (d : Bool) (q : Addr) : (s.setKeyBit k d).readByte q = s.readByte q := rfl
@[simp] theorem State.stackAt_setKeyBit (k : Nibble) (d : Bool) (q : Nat) : (s.setKeyBit k d).stackAt q = s.stackAt q := rfl
@[simp] theorem State.reg_beginWait (x : Nibble) (q : Nibble) : (s.beginWait x).reg q = s.reg q := rfl
@[simp] theorem State.key_beginWait (x : Nibble) (q : Nibble) : (s.beginWait x).key q = s.key q := rfl
@[simp] theorem State.readByte_beginWait (x : Nibble) (q : Addr) : (s.beginWait x).readByte q = s.readByte q := rfl
@[simp] theorem State.stackAt_beginWait (x : Nibble) (q : Nat) : (s.beginWait x).stackAt q = s.stackAt q := rfl
@[simp] theorem State.reg_takeFault (k : FaultKind) (o : Word) (a : Addr) (q : Nibble) : (s.takeFault k o a).reg q = s.reg q := rfl
@[simp] theorem State.key_takeFault (k : FaultKind) (o : Word) (a : Addr) (q : Nibble) : (s.takeFault k o a).key q = s.key q := rfl
@[simp] theorem State.readByte_takeFault (k : FaultKind) (o : Word) (a : Addr) (q : Addr) : (s.takeFault k o a).readByte q = s.readByte q := rfl
@[simp] theorem State.stackAt_takeFault (k : FaultKind) (o : Word) (a : Addr) (q : Nat) : (s.takeFault k o a).stackAt q = s.stackAt q := rfl
@[simp] theorem State.reg_beginStep (b : Byte) (q : Nibble) : (s.beginStep b).reg q = s.reg q := rfl
@[simp] theorem State.key_beginStep (b : Byte) (q : Nibble) : (s.beginStep b).key q = s.key q := rfl
@[simp] theorem State.readByte_beginStep (b : Byte) (q : Addr) : (s.beginStep b).readByte q = s.readByte q := rfl
@[simp] theorem State.stackAt_beginStep (b : Byte) (q : Nat) : (s.beginStep b).stackAt q = s.stackAt q := rfl

/-- Pushing writes the entry at `sp` when it is one of the stack's. -/
theorem State.stackAt_push (a : Addr) (h : s.sp < s.stack.length) (k : Nat) :
    (s.push a).stackAt k = if k = s.sp then a else s.stackAt k := by
  by_cases hk : k = s.sp
  · subst hk; simp [State.stackAt, h]
  · simp [State.stackAt, hk, List.getD_eq_getElem?_getD, List.getElem?_set_ne (Ne.symm hk)]

end Sys2Proof.Machine
end

