-- ==== Sys2Proof/Laws/Memory.lean ====
section
/-! SUPPORT. The memory operations: a read sees the last write and no other, and every operation keeps the canonical
form. -/

namespace Sys2Proof.Machine

variable (c : Config)

/-! ## Reading -/

theorem Memory.read_erase (m : Memory) (a b : Nat) :
    Memory.read c (m.erase a) b = if b = a then Memory.initial c a else Memory.read c m b := by
  induction m with
  | nil => by_cases h : b = a <;> simp [Memory.erase, Memory.read, h]
  | cons e rest ih =>
    obtain ⟨k, v⟩ := e
    by_cases hk : k = a
    · by_cases hb : b = a
      · subst hb; simpa [Memory.erase, hk] using ih
      · simp [Memory.erase, Memory.read, hk, ih, hb, Ne.symm hb]
    · by_cases hb : b = a
      · subst hb; simp [Memory.erase, Memory.read, hk, ih]
      · simp [Memory.erase, Memory.read, hk, ih, hb]

theorem Memory.read_insert (m : Memory) (a b : Nat) (v : Byte) (h : ∀ e ∈ m, e.1 ≠ a) :
    Memory.read c (m.insert a v) b = if b = a then v else Memory.read c m b := by
  induction m with
  | nil =>
    by_cases hb : b = a
    · simp [Memory.insert, Memory.read, hb]
    · simp [Memory.insert, Memory.read, hb, Ne.symm hb]
  | cons e rest ih =>
    obtain ⟨k, w⟩ := e
    have hk : k ≠ a := h (k, w) (by simp)
    have ih := ih fun e he => h e (by simp [he])
    by_cases hlt : a < k
    · by_cases hb : b = a
      · simp [Memory.insert, Memory.read, hlt, hb]
      · simp [Memory.insert, Memory.read, hlt, hb, Ne.symm hb]
    · by_cases hb : b = a
      · subst hb; simp [Memory.insert, Memory.read, hlt, ih, hk]
      · simp [Memory.insert, Memory.read, hlt, ih, hb]

theorem Memory.erase_mem {m : Memory} {a : Nat} {e : Host.Cell} (h : e ∈ m.erase a) : e ∈ m ∧ e.1 ≠ a := by
  induction m with
  | nil => simp [Memory.erase] at h
  | cons d rest ih =>
    obtain ⟨k, w⟩ := d
    by_cases hk : k = a
    · simp only [Memory.erase, hk, if_true] at h
      exact ⟨List.mem_cons_of_mem _ (ih h).1, (ih h).2⟩
    · simp only [Memory.erase, hk, if_false, List.mem_cons] at h
      rcases h with rfl | h
      · exact ⟨by simp, hk⟩
      · exact ⟨List.mem_cons_of_mem _ (ih h).1, (ih h).2⟩

/-- A read after a write: the byte written, or what was there before (20_memory.md R44). -/
theorem Memory.read_write (m : Memory) (a b : Nat) (v : Byte) :
    Memory.read c (m.write c a v) b = if b = a then v else Memory.read c m b := by
  unfold Memory.write
  split
  · next h => rw [Memory.read_erase, h]
  · rw [Memory.read_insert c _ _ _ _ fun e he => (Memory.erase_mem he).2, Memory.read_erase]
    split <;> simp_all

/-! ## The canonical form -/

theorem Memory.wf_nil : Memory.wf c [] := by simp [Memory.wf]

theorem Memory.erase_sorted {m : Memory} (a : Nat) (h : (m.map Prod.fst).Pairwise (· < ·)) :
    ((m.erase a).map Prod.fst).Pairwise (· < ·) := by
  induction m with
  | nil => simp [Memory.erase]
  | cons d rest ih =>
    obtain ⟨k, w⟩ := d
    simp only [List.map_cons, List.pairwise_cons] at h
    by_cases hk : k = a
    · simpa [Memory.erase, hk] using ih h.2
    · simp only [Memory.erase, hk, if_false, List.map_cons, List.pairwise_cons]
      refine ⟨fun x hx => ?_, ih h.2⟩
      obtain ⟨e, he, rfl⟩ := List.mem_map.1 hx
      exact h.1 _ (List.mem_map_of_mem (Memory.erase_mem he).1)

theorem Memory.insert_mem {m : Memory} {a : Nat} {v : Byte} {e : Host.Cell} :
    e ∈ m.insert a v ↔ e = (a, v) ∨ e ∈ m := by
  induction m with
  | nil => simp [Memory.insert]
  | cons d rest ih =>
    obtain ⟨k, w⟩ := d
    by_cases hlt : a < k
    · simp [Memory.insert, hlt]
    · simp only [Memory.insert, hlt, if_false, List.mem_cons, ih]; tauto

theorem Memory.insert_sorted {m : Memory} (a : Nat) (v : Byte) (h : (m.map Prod.fst).Pairwise (· < ·))
    (hn : ∀ e ∈ m, e.1 ≠ a) : ((m.insert a v).map Prod.fst).Pairwise (· < ·) := by
  induction m with
  | nil => simp [Memory.insert]
  | cons d rest ih =>
    obtain ⟨k, w⟩ := d
    have hk : k ≠ a := hn (k, w) (by simp)
    have h' := h
    simp only [List.map_cons, List.pairwise_cons] at h
    by_cases hlt : a < k
    · simp only [Memory.insert, hlt, if_true, List.map_cons]
      refine List.pairwise_cons.2 ⟨fun x hx => ?_, h'⟩
      rcases List.mem_cons.1 hx with rfl | hx
      · exact hlt
      · exact lt_trans hlt (h.1 x hx)
    · simp only [Memory.insert, hlt, if_false, List.map_cons, List.pairwise_cons]
      refine ⟨fun x hx => ?_, ih h.2 fun e he => hn e (by simp [he])⟩
      obtain ⟨e, he, rfl⟩ := List.mem_map.1 hx
      rcases Memory.insert_mem.1 he with rfl | he
      · exact lt_of_le_of_ne (Nat.le_of_not_lt hlt) hk
      · exact h.1 _ (List.mem_map_of_mem he)

/-- Every write keeps the canonical form. -/
theorem Memory.wf_write {m : Memory} (a : Nat) (v : Byte) (ha : a < memSize) (h : Memory.wf c m) :
    Memory.wf c (m.write c a v) := by
  have hs := Memory.erase_sorted a h.1
  have hm : ∀ e ∈ m.erase a, e.1 < memSize ∧ e.2 ≠ Memory.initial c e.1 := fun e he => h.2 e (Memory.erase_mem he).1
  unfold Memory.write
  split
  · exact ⟨hs, hm⟩
  · next hv =>
    refine ⟨Memory.insert_sorted a v hs fun e he => (Memory.erase_mem he).2, fun e he => ?_⟩
    rcases Memory.insert_mem.1 he with rfl | he
    · exact ⟨ha, hv⟩
    · exact hm e he

/-! ## The state's bytes -/

variable (s : State)

@[simp] theorem State.readByte_writeByte (a b : Addr) (v : Byte) :
    (s.writeByte a v).readByte b = if b = a then v else s.readByte b := by
  simp [State.readByte, State.writeByte, Memory.read_write, BitVec.toNat_inj]

theorem State.wf_writeByte (a : Addr) (v : Byte) (h : Memory.wf s.cfg s.mem) :
    Memory.wf (s.writeByte a v).cfg (s.writeByte a v).mem :=
  Memory.wf_write s.cfg a.toNat v a.isLt h

/-- Storing a block changes memory and nothing else. -/
theorem State.writeBytes_eq (e : Nat) (bs : List Byte) :
    s.writeBytes e bs = { s with mem := (s.writeBytes e bs).mem } := by
  induction bs generalizing s e with
  | nil => rfl
  | cons b bs ih => exact ih (s.writeByte (maskAddr e) b) (e + 1)

/-- What a byte reads as after a block is stored at `A(e)`, for a block that does not wrap onto itself. -/
theorem State.readByte_writeBytes (e : Nat) (bs : List Byte) (hl : bs.length ≤ 4096) (a : Addr) :
    (∀ (k : Nat) (h : k < bs.length), a = maskAddr (e + k) → (s.writeBytes e bs).readByte a = bs[k]) ∧
      ((∀ k, k < bs.length → a ≠ maskAddr (e + k)) → (s.writeBytes e bs).readByte a = s.readByte a) := by
  induction bs generalizing s e with
  | nil => simp [State.writeBytes]
  | cons b bs ih =>
    have hl' : bs.length ≤ 4096 := by simp at hl; omega
    obtain ⟨ih1, ih2⟩ := ih (s.writeByte (maskAddr e) b) (e + 1) hl'
    refine ⟨fun k h ha => ?_, fun h => ?_⟩
    · cases k with
      | zero =>
        have hne : ∀ k, k < bs.length → a ≠ maskAddr (e + 1 + k) := by
          intro k hk hak
          have := ha.symm.trans hak
          simp only [maskAddr, ← BitVec.toNat_inj, BitVec.toNat_ofNat] at this
          simp at hl; omega
        rw [State.writeBytes, ih2 hne]; simp [ha]
      | succ k =>
        simp only [List.getElem_cons_succ]
        exact ih1 k (by simpa using h) (by rw [ha]; congr 1; omega)
    · rw [State.writeBytes, ih2 fun k hk hak => h (k + 1) (by simpa using hk) (by rw [hak]; congr 1; omega)]
      have := h 0 (by simp)
      simp at this; simp [this]

/-- Storing a block keeps memory's canonical form. -/
theorem State.wf_writeBytes (e : Nat) (bs : List Byte) (h : Memory.wf s.cfg s.mem) :
    Memory.wf s.cfg (s.writeBytes e bs).mem := by
  induction bs generalizing s e with
  | nil => exact h
  | cons b bs ih => exact ih (s.writeByte (maskAddr e) b) (e + 1) (s.wf_writeByte _ b h)

/-- Reset's memory lists nothing: it is in canonical form. -/
theorem State.wf_resetWith : Memory.wf (State.resetWith c).cfg (State.resetWith c).mem := Memory.wf_nil c

end Sys2Proof.Machine
end

