-- ==== Sys2Proof/Laws/Ops.lean ====
section
/-! SUPPORT. What each shared operation does, said once: register blocks, flag writes, skips, drawing, and the one
inversion of `step`. -/

namespace Sys2Proof.Machine

variable (s : State)

/-! ## Register blocks -/

/-- Loading a block of registers changes the registers and nothing else. -/
theorem State.setRegs_eq (k : Nat) (bs : List Byte) :
    s.setRegs k bs = { s with regs := (s.setRegs k bs).regs } := by
  induction bs generalizing s k with
  | nil => rfl
  | cons b bs ih => exact ih (s.setReg (BitVec.ofNat 4 k) b) (k + 1)

/-- What a register reads as after the block from `V[k]` on is loaded. -/
theorem State.reg_setRegs (k : Nat) (bs : List Byte) (hl : k + bs.length ≤ 16) (r : Nibble) :
    (s.setRegs k bs).reg r =
      if h : k ≤ r.toNat ∧ r.toNat < k + bs.length then bs[r.toNat - k]'(by omega) else s.reg r := by
  induction bs generalizing s k with
  | nil => simp [State.setRegs]
  | cons b bs ih =>
    simp only [List.length_cons] at hl
    rw [State.setRegs, ih _ _ (by omega)]
    have hk : (BitVec.ofNat 4 k).toNat = k := by simp; omega
    by_cases h : k + 1 ≤ r.toNat ∧ r.toNat < k + 1 + bs.length
    · have h' : k ≤ r.toNat ∧ r.toNat < k + (b :: bs).length := by simp; omega
      rw [dif_pos h, dif_pos h', List.getElem_cons, dif_neg (by omega)]
      congr 1
    · rw [dif_neg h, State.reg_setReg]
      by_cases hr : BitVec.ofNat 4 k = r
      · have : r.toNat = k := by rw [← hr, hk]
        rw [if_pos hr, dif_pos (by simp; omega)]
        simp [this]
      · have : r.toNat ≠ k := fun h => hr (BitVec.eq_of_toNat_eq (by omega))
        rw [if_neg hr, dif_neg (by simp; omega)]

/-! ## Flag writes (43_alu.md R76) -/

/-- The two writes of a flag instruction change registers and nothing else. -/
theorem State.writeFlagged_eq (x : Nibble) (o : AluOut) :
    s.writeFlagged x o = { s with regs := (s.writeFlagged x o).regs } := by
  unfold State.writeFlagged; split <;> rfl

/-- What a register reads as after the two writes, in either order. -/
theorem State.reg_writeFlagged (x q : Nibble) (o : AluOut) :
    (s.writeFlagged x o).reg q =
      if q = regF then (if x = regF ∧ s.cfg.flagOrder = .flagFirst then o.result else flagByte o.flag)
      else if q = x then o.result else s.reg q := by
  unfold State.writeFlagged
  cases s.cfg.flagOrder <;> simp only [State.reg_setReg] <;> by_cases hq : q = regF <;> by_cases hx : x = regF <;>
    simp_all [eq_comm]

/-- ADD's result is the sum modulo 256. -/
@[simp] theorem aluAdd_result (a b : Byte) : (aluAdd a b).result = a + b := by
  apply BitVec.eq_of_toNat_eq; simp [aluAdd]

/-- SUB's result is the difference modulo 256. -/
@[simp] theorem aluSub_result (a b : Byte) : (aluSub a b).result = a - b := by
  apply BitVec.eq_of_toNat_eq; simp [aluSub, BitVec.toNat_sub]; omega

/-- SHL's result is the shift by one. -/
@[simp] theorem aluShl_result (v : Byte) : (aluShl v).result = v <<< 1 := by
  apply BitVec.eq_of_toNat_eq; simp [aluShl, Nat.shiftLeft_eq]

/-! ## Skips and the index -/

/-- A skip changes `pc` and nothing else. -/
theorem State.skipIf_eq (c : Bool) : s.skipIf c = s.setPc (if c then s.skipPc else s.npc) := by
  cases c <;> rfl

/-- The index update after a block. -/
theorem State.stepIndex_eq (x : Nibble) :
    s.stepIndex x = { s with i := if s.cfg.incrementI then maskIndex (s.i.toNat + (x.toNat + 1)) else s.i } := by
  unfold State.stepIndex; split <;> simp_all [State.setI, blockLength]

/-- A value written to `I` is below 4096 (R16). -/
theorem maskIndex_toNat (e : Nat) : (maskIndex e).toNat = e % 4096 := by
  simp [maskIndex]; omega

/-- The reduction of an address. -/
@[simp] theorem maskAddr_toNat (e : Nat) : (maskAddr e).toNat = e % 4096 := by simp [maskAddr]

/-! ## Drawing (46_draw.md) -/

@[simp] theorem Framebuffer.get_toggle (fb : Framebuffer) (p q : Pixel) :
    (fb.toggle p).get q = if q = p then !fb.get q else fb.get q := by
  obtain ⟨⟨a, ha⟩, ⟨b, hb⟩⟩ := p
  obtain ⟨⟨c, hc⟩, ⟨d, hd⟩⟩ := q
  by_cases h1 : a = c <;> by_cases h2 : b = d <;>
    simp [Framebuffer.toggle, Framebuffer.get, h1, h2, eq_comm]

@[simp] theorem Framebuffer.get_clear (p : Pixel) : Framebuffer.clear.get p = false := by
  simp [Framebuffer.get, Framebuffer.clear]

/-- Two framebuffers with the same pixels are the same. -/
theorem Framebuffer.ext_get {f g : Framebuffer} (h : ∀ p : Pixel, f.get p = g.get p) : f = g := by
  ext r hr c hc
  exact h (⟨r, hr⟩, ⟨c, hc⟩)

/-- Drawing distinct pixels: those of the list are toggled, the others kept, and a hit is a drawn pixel that was 1. -/
theorem drawPixels_spec (ps : List Pixel) (hn : ps.Nodup) (fb : Framebuffer) :
    (∀ q, (drawPixels fb ps).1.get q = if q ∈ ps then !fb.get q else fb.get q) ∧
      ((drawPixels fb ps).2 = true ↔ ∃ q ∈ ps, fb.get q = true) := by
  induction ps generalizing fb with
  | nil => simp [drawPixels]
  | cons p ps ih =>
    obtain ⟨hp, hn⟩ := List.nodup_cons.1 hn
    obtain ⟨h1, h2⟩ := ih hn (fb.toggle p)
    refine ⟨fun q => ?_, ?_⟩
    · rw [drawPixels, h1]
      by_cases hq : q = p
      · subst hq; simp [hp]
      · simp [hq]
    · have : (∃ q ∈ ps, (fb.toggle p).get q = true) ↔ ∃ q ∈ ps, fb.get q = true := by
        refine exists_congr fun q => and_congr_right fun hq => ?_
        have hne : q ≠ p := fun h => hp (h ▸ hq)
        rw [Framebuffer.get_toggle, if_neg hne]
      simp only [drawPixels, Bool.or_eq_true, h2, this, List.mem_cons, exists_eq_or_imp]

/-! ## What `dump` answers (60_exceptions.md R126) -/

@[simp] theorem State.toDump_regs : s.toDump.regs = s.regs := rfl
@[simp] theorem State.toDump_i : s.toDump.i = s.i := rfl
@[simp] theorem State.toDump_pc : s.toDump.pc = s.pc := rfl
@[simp] theorem State.toDump_stack : s.toDump.stack = s.stack := rfl
@[simp] theorem State.toDump_sp : s.toDump.sp = s.sp := rfl
@[simp] theorem State.toDump_dt : s.toDump.dt = s.dt := rfl
@[simp] theorem State.toDump_st : s.toDump.st = s.st := rfl
@[simp] theorem State.toDump_fb : s.toDump.fb = s.fb := rfl
@[simp] theorem State.toDump_dirty : s.toDump.dirty = s.dirty := rfl
@[simp] theorem State.toDump_keypad : s.toDump.keypad = s.keypad := rfl
@[simp] theorem State.toDump_fsm : s.toDump.fsm = s.fsm := rfl
@[simp] theorem State.toDump_waitTarget : s.toDump.waitTarget = s.waitTarget := rfl
@[simp] theorem State.toDump_fault : s.toDump.fault = s.fault := rfl
@[simp] theorem State.toDump_accCpu : s.toDump.accCpu = s.accCpu := rfl
@[simp] theorem State.toDump_accTimer : s.toDump.accTimer = s.accTimer := rfl
@[simp] theorem State.toDump_accFrame : s.toDump.accFrame = s.accFrame := rfl

/-- The dump holds every byte of memory at its address. -/
@[simp] theorem State.toDump_mem (a : Addr) : s.toDump.mem[a.toNat]'a.isLt = s.readByte a := by
  have h : maskAddr a.toNat = a := by simp [maskAddr]
  simp [State.toDump, State.readBytes, blockAddrs, h]

/-! ## Steps -/

/-- Every meaning answers a next state. -/
theorem exec_next (i : Instr) : ∃ t, exec i s = .next t := by
  cases i <;> exact ⟨_, rfl⟩

/-- What `cpu_step` can do: nothing, an illegal word's fault, or an instruction. -/
theorem cpuStep_cases (rnd : Byte) :
    ((s.fsm = .halt ∨ s.fsm = .waitKey) ∧ cpuStep rnd s = .next s) ∨
      (Runs s ∧ (∃ e, decode s.fetchWord = .error e) ∧
        cpuStep rnd s = .next ((s.beginStep rnd).takeFault .illegalInstruction s.fetchWord s.pc)) ∨
      (Runs s ∧ ∃ i, decode s.fetchWord = .ok i ∧ cpuStep rnd s = exec i (s.beginStep rnd)) := by
  unfold cpuStep Runs
  cases hf : s.fsm <;> simp only [runWord] <;> cases hd : decode s.fetchWord <;> simp

end Sys2Proof.Machine
end

