-- ==== Sys2Proof/Laws/Frame.lean ====
section
/-! SUPPORT. Frames: how they compose, and the frame of every shared operation. -/

namespace Sys2Proof.Machine

variable {s t u : State} {may may' : Piece → Prop}

/-! ## Composition -/

theorem SameAt.refl (s : State) (p : Piece) : SameAt s s p := by cases p <;> rfl

theorem SameAt.trans {p : Piece} (h : SameAt s t p) (h' : SameAt t u p) : SameAt s u p := by
  cases p <;> simp_all [SameAt]

theorem OnlyChanges.refl (s : State) (may : Piece → Prop) : OnlyChanges s s may := fun p _ => SameAt.refl s p

theorem OnlyChanges.mono (h : OnlyChanges s t may) (hm : ∀ p, may p → may' p) : OnlyChanges s t may' :=
  fun p hp => h p fun h' => hp (hm p h')

theorem OnlyChanges.trans (h : OnlyChanges s t may) (h' : OnlyChanges t u may) : OnlyChanges s u may :=
  fun p hp => (h p hp).trans (h' p hp)

/-- A change that the pieces of a list cover. -/
theorem OnlyChanges.of_these {ps : List Piece} (h : OnlyChanges s t (These ps)) (hm : ∀ p ∈ ps, may p) :
    OnlyChanges s t may := h.mono hm

/-! ## The operations -/

variable (s)

theorem State.setReg_frame (r : Nibble) (b : Byte) : OnlyChanges s (s.setReg r b) (These [.reg r]) := by
  intro p hp; cases p <;> simp_all [SameAt, These, eq_comm]

theorem State.writeByte_frame (a : Addr) (v : Byte) : OnlyChanges s (s.writeByte a v) (These [.byte a]) := by
  intro p hp; cases p <;> simp_all [SameAt, These]

theorem State.setI_frame (e : Nat) : OnlyChanges s (s.setI e) (These [.index]) := by
  intro p hp; cases p <;> simp_all [SameAt, These]

theorem State.setPc_frame (a : Addr) : OnlyChanges s (s.setPc a) (These [.pc]) := by
  intro p hp; cases p <;> simp_all [SameAt, These]

theorem State.advance_frame : OnlyChanges s s.advance (These [.pc]) := s.setPc_frame _

theorem State.skipIf_frame (c : Bool) : OnlyChanges s (s.skipIf c) (These [.pc]) := by
  rw [State.skipIf_eq]; exact s.setPc_frame _

theorem State.setDt_frame (b : Byte) : OnlyChanges s (s.setDt b) (These [.delay]) := by
  intro p hp; cases p <;> simp_all [SameAt, These]

theorem State.setSt_frame (b : Byte) : OnlyChanges s (s.setSt b) (These [.sound]) := by
  intro p hp; cases p <;> simp_all [SameAt, These]

theorem State.push_frame (a : Addr) : OnlyChanges s (s.push a) (These [.stackEntry s.sp, .sp]) := by
  intro p hp
  cases p with
  | stackEntry k =>
    have hk : s.sp ≠ k := by simpa [These, eq_comm] using hp
    simp [SameAt, List.getElem?_set_ne hk]
  | _ => simp_all [SameAt, These]

theorem State.pop_frame : OnlyChanges s s.pop (These [.sp]) := by
  intro p hp; cases p <;> simp_all [SameAt, These]

theorem State.setFb_frame (f : Framebuffer) :
    OnlyChanges s (s.setFb f) (fun q => q = .dirty ∨ ∃ p, q = .pixel p) := by
  intro p hp; cases p <;> simp_all [SameAt]

theorem State.setKeyBit_frame (k : Nibble) (d : Bool) : OnlyChanges s (s.setKeyBit k d) (These [.key k]) := by
  intro p hp; cases p <;> simp_all [SameAt, These, eq_comm]

theorem State.beginWait_frame (x : Nibble) : OnlyChanges s (s.beginWait x) (These [.waitTarget, .fsm]) := by
  intro p hp; cases p <;> simp_all [SameAt, These]

theorem State.takeFault_frame (k : FaultKind) (o : Word) (a : Addr) :
    OnlyChanges s (s.takeFault k o a) (These [.fault, .fsm]) := by
  intro p hp; cases p <;> simp_all [SameAt, These]

/-- What `raise` leaves: the fault of the instruction's word at `pc`. -/
theorem State.raise_haltsWith (k : FaultKind) (i : Instr) : HaltsWith s (s.raise k i) k (encode i) :=
  ⟨rfl, rfl, s.takeFault_frame k _ _⟩

theorem State.beginStep_frame (b : Byte) : OnlyChanges s (s.beginStep b) (These [.fsm, .rnd, .draws]) := by
  intro p hp; cases p <;> simp_all [SameAt, These]

theorem State.endWait_frame (k : Nibble) : OnlyChanges s (s.endWait k) (These [.reg s.waitTarget, .fsm]) := by
  have h : OnlyChanges (s.setReg s.waitTarget (k.setWidth 8)) (s.endWait k) (These [.reg s.waitTarget, .fsm]) := by
    intro p hp; cases p <;> first | rfl | simp_all [These]
  exact ((s.setReg_frame _ _).of_these (by simp [These])).trans h

theorem State.writeFlagged_frame (x : Nibble) (o : AluOut) :
    OnlyChanges s (s.writeFlagged x o) (These [.reg x, .reg regF]) := by
  unfold State.writeFlagged
  split <;>
    exact ((s.setReg_frame _ _).of_these (by simp [These])).trans
      ((State.setReg_frame _ _ _).of_these (by simp [These]))

theorem State.writeIndexFlag_frame (f : Bool) :
    OnlyChanges s (s.writeIndexFlag f) (fun q => s.cfg.addIVf = true ∧ q = .reg regF) := by
  unfold State.writeIndexFlag
  split
  · exact (s.setReg_frame _ _).of_these (by simp_all)
  · exact OnlyChanges.refl _ _

theorem State.stepIndex_frame (x : Nibble) :
    OnlyChanges s (s.stepIndex x) (fun q => s.cfg.incrementI = true ∧ q = .index) := by
  unfold State.stepIndex
  split
  · exact (s.setI_frame _).of_these (by simp_all)
  · exact OnlyChanges.refl _ _

theorem State.writeBytes_frame (e : Nat) (bs : List Byte) :
    OnlyChanges s (s.writeBytes e bs) (fun q => ∃ k, k < bs.length ∧ q = .byte (maskAddr (e + k))) := by
  induction bs generalizing s e with
  | nil => exact OnlyChanges.refl _ _
  | cons b bs ih =>
    refine ((s.writeByte_frame (maskAddr e) b).of_these ?_).trans ((ih _ (e + 1)).mono ?_)
    · simp only [List.mem_singleton, forall_eq]
      exact ⟨0, by simp, by simp⟩
    · rintro p ⟨k, hk, rfl⟩
      exact ⟨k + 1, by simpa using hk, by rw [Nat.add_right_comm, Nat.add_assoc]⟩

theorem State.setRegs_frame (k : Nat) (bs : List Byte) (hl : k + bs.length ≤ 16) :
    OnlyChanges s (s.setRegs k bs) (fun q => ∃ r : Nibble, k ≤ r.toNat ∧ r.toNat < k + bs.length ∧ q = .reg r) := by
  rw [State.setRegs_eq]
  intro p hp
  cases p with
  | reg r =>
    have hr : ¬ (k ≤ r.toNat ∧ r.toNat < k + bs.length) := fun h => hp ⟨r, h.1, h.2, rfl⟩
    show (s.setRegs k bs).reg r = s.reg r
    rw [State.reg_setRegs _ _ _ hl, dif_neg hr]
  | _ => rfl

end Sys2Proof.Machine
end

