-- ==== Sys2Proof/Laws/PerInstr.lean ====
section
/-! SUPPORT. What holds of every instruction as a term: its encoding is a word of its own row of the opcode map
(30_encoding.md R54, columns `match` and `mask`). -/

namespace Sys2Proof.Laws.EncodesItsRow

/-- The encoding lies in the instruction's row. -/
def Statement (i : Instr) : Prop := (opcodeRow i).hits (encode i) = true

/-! ## Masking the four shapes of a word -/

theorem mask_address (f : Nibble) (nnn : Addr) : (f ++ nnn) &&& (0xF000 : Word) = f.setWidth 16 <<< 12 := by
  apply BitVec.eq_of_getLsbD_eq
  intro i hi
  rw [BitVec.getLsbD_and]
  erw [BitVec.getLsbD_append]
  interval_cases i <;> simp [-BitVec.getLsbD_eq_getElem]

theorem mask_byte (f x : Nibble) (nn : Byte) : (f ++ x ++ nn) &&& (0xF000 : Word) = f.setWidth 16 <<< 12 := by
  apply BitVec.eq_of_getLsbD_eq
  intro i hi
  rw [BitVec.getLsbD_and]
  erw [BitVec.getLsbD_append, BitVec.getLsbD_append]
  interval_cases i <;> simp [-BitVec.getLsbD_eq_getElem]

theorem mask_nibbles (f x y n : Nibble) : (f ++ x ++ y ++ n) &&& (0xF00F : Word) = f.setWidth 16 <<< 12 ||| n.setWidth 16 := by
  apply BitVec.eq_of_getLsbD_eq
  intro i hi
  rw [BitVec.getLsbD_and]
  erw [BitVec.getLsbD_append, BitVec.getLsbD_append, BitVec.getLsbD_append]
  interval_cases i <;> simp [-BitVec.getLsbD_eq_getElem]

theorem mask_family (f x y n : Nibble) : (f ++ x ++ y ++ n) &&& (0xF000 : Word) = f.setWidth 16 <<< 12 := by
  apply BitVec.eq_of_getLsbD_eq
  intro i hi
  rw [BitVec.getLsbD_and]
  erw [BitVec.getLsbD_append, BitVec.getLsbD_append, BitVec.getLsbD_append]
  interval_cases i <;> simp [-BitVec.getLsbD_eq_getElem]

theorem mask_code (f x : Nibble) (nn : Byte) : (f ++ x ++ nn) &&& (0xF0FF : Word) = f.setWidth 16 <<< 12 ||| nn.setWidth 16 := by
  apply BitVec.eq_of_getLsbD_eq
  intro i hi
  rw [BitVec.getLsbD_and]
  erw [BitVec.getLsbD_append, BitVec.getLsbD_append]
  interval_cases i <;> simp [-BitVec.getLsbD_eq_getElem]

/-! ## One lemma per instruction -/

theorem cls : Statement .cls := rfl

theorem ret : Statement .ret := rfl

theorem sys (nnn : Addr) : Statement (.sys nnn) := by
  simp only [Statement, OpcodeRow.hits, opcodeRow, encode, mask_address]; decide

theorem jp (nnn : Addr) : Statement (.jp nnn) := by
  simp only [Statement, OpcodeRow.hits, opcodeRow, encode, mask_address]; decide

theorem call (nnn : Addr) : Statement (.call nnn) := by
  simp only [Statement, OpcodeRow.hits, opcodeRow, encode, mask_address]; decide

theorem seImm (x : Nibble) (nn : Byte) : Statement (.seImm x nn) := by
  simp only [Statement, OpcodeRow.hits, opcodeRow, encode, mask_byte]; decide

theorem sneImm (x : Nibble) (nn : Byte) : Statement (.sneImm x nn) := by
  simp only [Statement, OpcodeRow.hits, opcodeRow, encode, mask_byte]; decide

theorem seReg (x y : Nibble) : Statement (.seReg x y) := by
  simp only [Statement, OpcodeRow.hits, opcodeRow, encode, mask_nibbles]; decide

theorem ldImm (x : Nibble) (nn : Byte) : Statement (.ldImm x nn) := by
  simp only [Statement, OpcodeRow.hits, opcodeRow, encode, mask_byte]; decide

theorem addImm (x : Nibble) (nn : Byte) : Statement (.addImm x nn) := by
  simp only [Statement, OpcodeRow.hits, opcodeRow, encode, mask_byte]; decide

theorem ldReg (x y : Nibble) : Statement (.ldReg x y) := by
  simp only [Statement, OpcodeRow.hits, opcodeRow, encode, mask_nibbles]; decide

theorem orReg (x y : Nibble) : Statement (.orReg x y) := by
  simp only [Statement, OpcodeRow.hits, opcodeRow, encode, mask_nibbles]; decide

theorem andReg (x y : Nibble) : Statement (.andReg x y) := by
  simp only [Statement, OpcodeRow.hits, opcodeRow, encode, mask_nibbles]; decide

theorem xorReg (x y : Nibble) : Statement (.xorReg x y) := by
  simp only [Statement, OpcodeRow.hits, opcodeRow, encode, mask_nibbles]; decide

theorem addReg (x y : Nibble) : Statement (.addReg x y) := by
  simp only [Statement, OpcodeRow.hits, opcodeRow, encode, mask_nibbles]; decide

theorem subReg (x y : Nibble) : Statement (.subReg x y) := by
  simp only [Statement, OpcodeRow.hits, opcodeRow, encode, mask_nibbles]; decide

theorem shr (x y : Nibble) : Statement (.shr x y) := by
  simp only [Statement, OpcodeRow.hits, opcodeRow, encode, mask_nibbles]; decide

theorem subn (x y : Nibble) : Statement (.subn x y) := by
  simp only [Statement, OpcodeRow.hits, opcodeRow, encode, mask_nibbles]; decide

theorem shl (x y : Nibble) : Statement (.shl x y) := by
  simp only [Statement, OpcodeRow.hits, opcodeRow, encode, mask_nibbles]; decide

theorem sneReg (x y : Nibble) : Statement (.sneReg x y) := by
  simp only [Statement, OpcodeRow.hits, opcodeRow, encode, mask_nibbles]; decide

theorem ldI (nnn : Addr) : Statement (.ldI nnn) := by
  simp only [Statement, OpcodeRow.hits, opcodeRow, encode, mask_address]; decide

theorem jpV0 (nnn : Addr) : Statement (.jpV0 nnn) := by
  simp only [Statement, OpcodeRow.hits, opcodeRow, encode, mask_address]; decide

theorem rnd (x : Nibble) (nn : Byte) : Statement (.rnd x nn) := by
  simp only [Statement, OpcodeRow.hits, opcodeRow, encode, mask_byte]; decide

theorem drw (x y n : Nibble) : Statement (.drw x y n) := by
  simp only [Statement, OpcodeRow.hits, opcodeRow, encode, mask_family]; decide

theorem skp (x : Nibble) : Statement (.skp x) := by
  simp only [Statement, OpcodeRow.hits, opcodeRow, encode, mask_code]; decide

theorem sknp (x : Nibble) : Statement (.sknp x) := by
  simp only [Statement, OpcodeRow.hits, opcodeRow, encode, mask_code]; decide

theorem ldVxDt (x : Nibble) : Statement (.ldVxDt x) := by
  simp only [Statement, OpcodeRow.hits, opcodeRow, encode, mask_code]; decide

theorem ldVxK (x : Nibble) : Statement (.ldVxK x) := by
  simp only [Statement, OpcodeRow.hits, opcodeRow, encode, mask_code]; decide

theorem ldDtVx (x : Nibble) : Statement (.ldDtVx x) := by
  simp only [Statement, OpcodeRow.hits, opcodeRow, encode, mask_code]; decide

theorem ldStVx (x : Nibble) : Statement (.ldStVx x) := by
  simp only [Statement, OpcodeRow.hits, opcodeRow, encode, mask_code]; decide

theorem addI (x : Nibble) : Statement (.addI x) := by
  simp only [Statement, OpcodeRow.hits, opcodeRow, encode, mask_code]; decide

theorem ldF (x : Nibble) : Statement (.ldF x) := by
  simp only [Statement, OpcodeRow.hits, opcodeRow, encode, mask_code]; decide

theorem ldB (x : Nibble) : Statement (.ldB x) := by
  simp only [Statement, OpcodeRow.hits, opcodeRow, encode, mask_code]; decide

theorem stRegs (x : Nibble) : Statement (.stRegs x) := by
  simp only [Statement, OpcodeRow.hits, opcodeRow, encode, mask_code]; decide

theorem ldRegs (x : Nibble) : Statement (.ldRegs x) := by
  simp only [Statement, OpcodeRow.hits, opcodeRow, encode, mask_code]; decide

end Sys2Proof.Laws.EncodesItsRow
end

