-- ==== Sys2Proof/Tests/Slice0.lean ====
section
/-! SUPPORT. Tests: the well-formedness smoke test, a word written out for every instruction, one-step tests whose
expected values are spec/95_test_vectors.md's (cited by their numbers there), and a witness for the hypotheses of
every statement of Certificates/Slice0/Obligations.lean. -/

namespace Sys2Proof.Machine.Tests

/-! ## Helpers -/

/-- The state an outcome gives. -/
def stateOf : Host.Outcome State Fault Refusal → State
  | .next t => t
  | .fault _ => State.reset
  | .refused _ => State.reset

/-- The state and the answer a command gives. -/
def answerOf : Host.Outcome (State × Response) Fault Refusal → State × Response
  | .next t => t
  | .fault _ => (State.reset, .done)
  | .refused _ => (State.reset, .done)

/-- The state after the word `w`, stored at `pc`, has executed as `cpu_step(rnd)`. -/
def after (s : State) (w : Nat) (rnd : Byte := 0) : State := stateOf (cpuStep rnd (s.placeWord 16 w))

/-- The state after one command. -/
def told (s : State) (c : Command) : State := (answerOf (runCommand c s)).1

/-- What one command answers. -/
def answer (s : State) (c : Command) : Response := (answerOf (runCommand c s)).2

/-- Reset with `V0` and `V1`, and `VF = 0x55`. -/
def regs (v0 v1 : Byte) : State := ((State.reset.setReg 0 v0).setReg 1 v1).setReg 15 0x55

/-- Reset with other parameters. -/
def withProfile (f : Config → Config) : State := State.resetWith (f referenceProfile)

/-- `I = 0x300`, these bytes there, `V0` and `V1`. -/
def sprite (s : State) (v0 v1 : Byte) (bytes : List Byte) : State :=
  ((((s.setI 0x300).writeBytes 0x300 bytes).setReg 0 v0).setReg 1 v1)

/-- The pixel at a column and a row. -/
def pixel (s : State) (col : Fin 64) (row : Fin 32) : Bool := s.fb.get (row, col)

/-- A state that is the one before but for a raised fault of the word at `pc`. -/
def faulted (s : State) (k : FaultKind) (w : Nat) : State :=
  { s.placeWord 16 w with fault := ⟨k, BitVec.ofNat 16 w, s.pc⟩, fsm := .halt, draws := s.draws + 1 }

/-! ## Well-formedness -/

theorem test_wellFormed_refuses_sys_00E0 : wellFormed (.sys 0x0E0) = false := by decide
theorem test_wellFormed_refuses_sys_00EE : wellFormed (.sys 0x0EE) = false := by decide
theorem test_wellFormed_admits_sys : wellFormed (.sys 0x0E1) = true := by decide

/-! ## Decoding: the patterns of R54, with the operands written in -/

theorem test_decode_control :
    decode 0x00E0 = .ok .cls ∧ decode 0x00EE = .ok .ret ∧ decode 0x0123 = .ok (.sys 0x123) ∧
      decode 0x1ABC = .ok (.jp 0xABC) ∧ decode 0x2DEF = .ok (.call 0xDEF) ∧ decode 0xB456 = .ok (.jpV0 0x456) := by
  decide

theorem test_decode_skips :
    decode 0x3A42 = .ok (.seImm 10 0x42) ∧ decode 0x4B17 = .ok (.sneImm 11 0x17) ∧
      decode 0x5CD0 = .ok (.seReg 12 13) ∧ decode 0x9E20 = .ok (.sneReg 14 2) := by decide

theorem test_decode_load_add :
    decode 0x6005 = .ok (.ldImm 0 0x05) ∧ decode 0x7FA3 = .ok (.addImm 15 0xA3) := by decide

theorem test_decode_alu :
    decode 0x8120 = .ok (.ldReg 1 2) ∧ decode 0x8341 = .ok (.orReg 3 4) ∧ decode 0x8562 = .ok (.andReg 5 6) ∧
      decode 0x8783 = .ok (.xorReg 7 8) ∧ decode 0x89A4 = .ok (.addReg 9 10) ∧ decode 0x8BC5 = .ok (.subReg 11 12) ∧
      decode 0x8DE6 = .ok (.shr 13 14) ∧ decode 0x8F07 = .ok (.subn 15 0) ∧ decode 0x822E = .ok (.shl 2 2) := by
  decide

theorem test_decode_random_draw :
    decode 0xC50F = .ok (.rnd 5 0x0F) ∧ decode 0xD235 = .ok (.drw 2 3 5) := by decide

theorem test_decode_input :
    decode 0xE19E = .ok (.skp 1) ∧ decode 0xE2A1 = .ok (.sknp 2) ∧ decode 0xF30A = .ok (.ldVxK 3) := by decide

theorem test_decode_timers :
    decode 0xF407 = .ok (.ldVxDt 4) ∧ decode 0xF515 = .ok (.ldDtVx 5) ∧ decode 0xF618 = .ok (.ldStVx 6) := by decide

theorem test_decode_index :
    decode 0xA300 = .ok (.ldI 0x300) ∧ decode 0xF21E = .ok (.addI 2) ∧ decode 0xF829 = .ok (.ldF 8) ∧
      decode 0xF933 = .ok (.ldB 9) ∧ decode 0xFA55 = .ok (.stRegs 10) ∧ decode 0xFB65 = .ok (.ldRegs 11) := by decide

/-- S10, A29, N11, X21: the illegal words, rejected by name. -/
theorem test_decode_rejects :
    decode 0x5011 = .error .illegal5 ∧ decode 0x9011 = .error .illegal9 ∧ decode 0x8008 = .error .illegal8 ∧
      decode 0x800D = .error .illegal8 ∧ decode 0x800F = .error .illegal8 ∧ decode 0xE0A2 = .error .illegalE ∧
      decode 0xE19F = .error .illegalE ∧ decode 0xF000 = .error .illegalF ∧ decode 0xF0FF = .error .illegalF ∧
      decode 0xF01F = .error .illegalF := by decide

theorem test_decodeBytes_truncated :
    decodeBytes [] = .error .truncated ∧ decodeBytes [0x60] = .error .truncated := by decide

/-- E7, E12: `60 05`, high byte first, and the bytes after it left over. -/
theorem test_decodeBytes_bigEndian :
    decodeBytes [0x60, 0x05, 0x70, 0x03] = .ok (.ldImm 0 5, [0x70, 0x03]) := by decide

theorem test_decodeTableWord : decodeTableWord 16 0x6005 = some (.ldImm 0 5) ∧ decodeTableWord 16 0x5011 = none := by
  decide

/-- R57's forms. -/
theorem test_asm : asm (.ldRegs 2) = "LD V2, [I]" ∧ asm (.drw 0 10 5) = "DRW V0, VA, 0x5" := by decide

/-! ## Control -/

/-- C2. -/
theorem test_cls : (after State.reset 0x00E0).dirty = true ∧ (after State.reset 0x00E0).pc = 0x202 := by decide
/-- C1. -/
theorem test_cls_clears :
    (after { State.reset with fb := State.reset.fb.toggle (3, 7) } 0x00E0).fb = State.reset.fb := by decide
/-- C3. -/
theorem test_ret : (after ((State.reset.push 0x206).setPc 0x210) 0x00EE).pc = 0x206 ∧
    (after ((State.reset.push 0x206).setPc 0x210) 0x00EE).sp = 0 := by decide
/-- C4. -/
theorem test_ret_empty :
    after (State.reset.setPc 0x210) 0x00EE = faulted (State.reset.setPc 0x210) .stackUnderflow 0x00EE := by decide
/-- C13. -/
theorem test_sys : after (State.reset.setPc 0x208) 0x0123 =
    faulted (State.reset.setPc 0x208) .illegalInstruction 0x0123 := by decide
/-- C5. -/
theorem test_jp : (after State.reset 0x1300).pc = 0x300 := by decide
/-- C7. -/
theorem test_jp_odd : after State.reset 0x1201 = faulted State.reset .misalignedPc 0x1201 := by decide
/-- C12. -/
theorem test_call_at_the_top : (after (State.reset.setPc 0xFFE) 0x2200).stackAt 0 = 0x000 ∧
    (after (State.reset.setPc 0xFFE) 0x2200).sp = 1 ∧ (after (State.reset.setPc 0xFFE) 0x2200).pc = 0x200 := by decide
/-- C11, C9: alignment is reported before overflow. -/
theorem test_call_full :
    after { State.reset with sp := 16 } 0x2301 = faulted { State.reset with sp := 16 } .misalignedPc 0x2301 ∧
      after { State.reset with sp := 16 } 0x2300 = faulted { State.reset with sp := 16 } .stackOverflow 0x2300 := by
  decide
/-- B2. -/
theorem test_jpV0_wraps : (after (regs 4 0) 0xBFFE).pc = 0x002 := by decide
/-- B3. -/
theorem test_jpV0_odd : after (regs 1 0) 0xB300 = faulted (regs 1 0) .misalignedPc 0xB300 := by decide

/-! ## Skips -/

/-- S1, S2. -/
theorem test_seImm : (after (regs 5 0) 0x3005).pc = 0x204 ∧ (after (regs 4 0) 0x3005).pc = 0x202 := by decide
/-- S7, S8. -/
theorem test_seImm_wraps : (after (State.reset.setPc 0xFFC) 0x3000).pc = 0x000 ∧
    (after (State.reset.setPc 0xFFE) 0x3000).pc = 0x002 := by decide
/-- S3. -/
theorem test_sneImm : (after (regs 4 0) 0x4005).pc = 0x204 ∧ (after (regs 5 0) 0x4005).pc = 0x202 := by decide
/-- S4. -/
theorem test_seReg : (after (regs 7 7) 0x5010).pc = 0x204 ∧ (after (regs 7 8) 0x5010).pc = 0x202 := by decide
/-- S5. -/
theorem test_sneReg : (after (regs 7 8) 0x9010).pc = 0x204 ∧ (after (regs 7 7) 0x9010).pc = 0x202 := by decide

/-! ## Load, add, ALU -/

/-- L2. -/
theorem test_ldImm : (after State.reset 0x6F12).reg 15 = 0x12 ∧ (after State.reset 0x6F12).pc = 0x202 := by decide
/-- L3, L4. -/
theorem test_addImm : (after (regs 0xFF 0) 0x7001).reg 0 = 0 ∧ (after (regs 0xFF 0) 0x7001).reg 15 = 0x55 ∧
    (after (State.reset.setReg 15 0xFF) 0x7F01).reg 15 = 0 := by decide
/-- A1. -/
theorem test_ldReg : (after (regs 0x12 0x7A) 0x8010).reg 0 = 0x7A ∧ (after (regs 0x12 0x7A) 0x8010).reg 15 = 0x55 := by
  decide
/-- A2. -/
theorem test_orReg : (after (regs 0xF0 0x0F) 0x8011).reg 0 = 0xFF ∧ (after (regs 0xF0 0x0F) 0x8011).reg 15 = 0x55 := by
  decide
/-- A3. -/
theorem test_andReg : (after (regs 0xF0 0x3C) 0x8012).reg 0 = 0x30 ∧
    (after (regs 0xF0 0x3C) 0x8012).reg 15 = 0x55 := by decide
/-- A4. -/
theorem test_xorReg : (after (regs 0xFF 0x0F) 0x8013).reg 0 = 0xF0 ∧
    (after (regs 0xFF 0x0F) 0x8013).reg 15 = 0x55 := by decide
/-- A6, A7. -/
theorem test_addReg : (after (regs 0xFF 0xFF) 0x8014).reg 0 = 0xFE ∧ (after (regs 0xFF 0xFF) 0x8014).reg 15 = 1 ∧
    (after (regs 0x80 0x7F) 0x8014).reg 0 = 0xFF ∧ (after (regs 0x80 0x7F) 0x8014).reg 15 = 0 := by decide
/-- A9: both orders of the writes. -/
theorem test_addReg_VF :
    (after ((State.reset.setReg 15 0xFF).setReg 1 1) 0x8F14).reg 15 = 1 ∧
      (after (((withProfile fun c => { c with flagOrder := .flagFirst }).setReg 15 0xFF).setReg 1 1) 0x8F14).reg 15
        = 0 := by decide
/-- A12, A13. -/
theorem test_subReg : (after (regs 3 5) 0x8015).reg 0 = 0xFE ∧ (after (regs 3 5) 0x8015).reg 15 = 0 ∧
    (after (regs 5 5) 0x8015).reg 0 = 0 ∧ (after (regs 5 5) 0x8015).reg 15 = 1 := by decide
/-- A15: both orders of the writes. -/
theorem test_subReg_VF :
    (after ((State.reset.setReg 15 5).setReg 1 3) 0x8F15).reg 15 = 1 ∧
      (after (((withProfile fun c => { c with flagOrder := .flagFirst }).setReg 15 5).setReg 1 3) 0x8F15).reg 15
        = 2 := by decide
/-- A19. -/
theorem test_shr : (after (regs 3 0) 0x8006).reg 0 = 1 ∧ (after (regs 3 0) 0x8006).reg 15 = 1 := by decide
/-- A22. -/
theorem test_shr_vy :
    let t := after (((withProfile fun c => { c with shiftSource := .vy }).setReg 0 0).setReg 1 0x81) 0x8016
    t.reg 0 = 0x40 ∧ t.reg 1 = 0x81 ∧ t.reg 15 = 1 := by decide
/-- A16, A17. -/
theorem test_subn : (after (regs 3 5) 0x8017).reg 0 = 2 ∧ (after (regs 3 5) 0x8017).reg 15 = 1 ∧
    (after (regs 5 3) 0x8017).reg 0 = 0xFE ∧ (after (regs 5 3) 0x8017).reg 15 = 0 := by decide
/-- A24, A25. -/
theorem test_shl : (after (regs 0x81 0) 0x800E).reg 0 = 2 ∧ (after (regs 0x81 0) 0x800E).reg 15 = 1 ∧
    (after (regs 0x40 0) 0x800E).reg 0 = 0x80 ∧ (after (regs 0x40 0) 0x800E).reg 15 = 0 := by decide
/-- A28. -/
theorem test_shl_vy :
    let t := after (((withProfile fun c => { c with shiftSource := .vy }).setReg 0 0).setReg 1 0xC0) 0x801E
    t.reg 0 = 0x80 ∧ t.reg 1 = 0xC0 ∧ t.reg 15 = 1 := by decide

/-! ## RND and DRW -/

/-- Q1. -/
theorem test_rnd : (after State.reset 0xC50F 0xAB).reg 5 = 0x0B := by decide
/-- W7. -/
theorem test_drw_collides :
    let t := after (sprite { State.reset with fb := State.reset.fb.toggle (0, 0) } 0 0 [0xC0]) 0xD011
    pixel t 0 0 = false ∧ pixel t 1 0 = true ∧ t.reg 15 = 1 ∧ t.dirty = true := by decide
/-- W3: clipped and wrapped. -/
theorem test_drw_edge :
    let t := after (sprite State.reset 60 0 [0xFF]) 0xD011
    let u := after (sprite (withProfile fun c => { c with drawWrap := true }) 60 0 [0xFF]) 0xD011
    pixel t 63 0 = true ∧ pixel t 0 0 = false ∧ pixel t 59 0 = false ∧
      pixel u 63 0 = true ∧ pixel u 3 0 = true ∧ pixel u 4 0 = false ∧ t.reg 15 = 0 := by decide

/-! ## Input -/

/-- N3. -/
theorem test_skp : (after ((State.reset.setKeyBit 7 true).setReg 1 0x17) 0xE19E).pc = 0x204 := by decide
/-- N2. -/
theorem test_sknp : (after ((State.reset.setReg 1 7).setPc 0x202) 0xE1A1).pc = 0x206 := by decide
/-- N4. -/
theorem test_ldVxK : (after State.reset 0xF10A).fsm = .waitKey ∧ (after State.reset 0xF10A).waitTarget = 1 ∧
    (after State.reset 0xF10A).pc = 0x202 ∧ (after State.reset 0xF10A).reg 1 = 0 := by decide
/-- N9, N7. -/
theorem test_set_key :
    (told (after State.reset 0xFF0A) (.setKey 0xA true)).reg 15 = 0x0A ∧
      (told (after State.reset 0xFF0A) (.setKey 0xA true)).fsm = .run ∧
      (told (after (State.reset.setKeyBit 3 true) 0xF10A) (.setKey 3 true)).fsm = .waitKey := by decide

/-! ## Timers -/

/-- T1. -/
theorem test_ldVxDt : (after (State.reset.setDt 0x3C) 0xF307).reg 3 = 0x3C := by decide
/-- T2. -/
theorem test_ldDtVx : (after (regs 60 0) 0xF015).dt = 60 := by decide
/-- T3. -/
theorem test_ldStVx : (after (regs 2 0) 0xF018).st = 2 ∧ soundActive (after (regs 2 0) 0xF018) = true := by decide
/-- T6, T7, T8. -/
theorem test_timer_tick :
    (told State.reset .timerTick).dt = 0 ∧
      (told { State.reset.setDt 5 with fsm := .halt } .timerTick).dt = 5 ∧
      (told { State.reset.setDt 5 with fsm := .waitKey } .timerTick).dt = 4 := by decide

/-! ## Index and memory -/

/-- X2. -/
theorem test_ldI : (after State.reset 0xA301).i = 0x301 := by decide
/-- X4. -/
theorem test_addI :
    (after ((regs 1 0).setI 0xFFF) 0xF01E).i = 0 ∧ (after ((regs 1 0).setI 0xFFF) 0xF01E).reg 15 = 0x55 := by decide
/-- X4, X5 under `QUIRK_ADD_I_VF`. -/
theorem test_addI_flag :
    let s := (withProfile fun c => { c with addIVf := true }).setReg 15 0x55
    (after ((s.setReg 0 1).setI 0xFFF) 0xF01E).reg 15 = 1 ∧
      (after ((s.setReg 0 0xFF).setI 0xF00) 0xF01E).reg 15 = 0 := by decide
/-- X9, X10. -/
theorem test_ldF : (after (regs 0x10 0) 0xF029).i = 0x0A0 ∧ (after (regs 0xFF 0) 0xF029).i = 0x54B := by decide
/-- X15. -/
theorem test_ldB :
    let t := after ((regs 254 0).setI 0xFFF) 0xF033
    t.readByte 0xFFF = 2 ∧ t.readByte 0x000 = 5 ∧ t.readByte 0x001 = 4 := by decide
/-- X20. -/
theorem test_stRegs :
    let t := after (((regs 1 2).setReg 2 3).setI 0xFFE) 0xF255
    t.readByte 0xFFE = 1 ∧ t.readByte 0xFFF = 2 ∧ t.readByte 0x000 = 3 ∧ t.i = 0xFFE := by decide
/-- X16 under `QUIRK_INCREMENT_I`. -/
theorem test_stRegs_increment :
    (after ((withProfile fun c => { c with incrementI := true }).setI 0x400) 0xF255).i = 0x403 := by decide
/-- X18. -/
theorem test_ldRegs :
    let t := after ((sprite State.reset 0 0 [2, 5, 4]).setReg 3 0x77) 0xF265
    t.reg 0 = 2 ∧ t.reg 1 = 5 ∧ t.reg 2 = 4 ∧ t.reg 3 = 0x77 ∧ t.i = 0x300 := by decide

/-! ## Commands -/

/-- M5, R131: with no ROM the first step halts. -/
theorem test_first_step_without_rom :
    (stateOf (cpuStep 0 State.reset)).fault = ⟨.illegalInstruction, 0x0000, 0x200⟩ ∧
      (stateOf (cpuStep 0 State.reset)).fsm = .halt := by decide
/-- M4. -/
theorem test_load_rom :
    let t := told (told State.reset (.loadRom [0x12, 0x34])) (.loadRom [0x56])
    t.readByte 0x200 = 0x56 ∧ t.readByte 0x201 = 0x34 ∧ t.fsm = .load := by decide
/-- M6: the first glyph after reset. -/
theorem test_font : State.reset.readBytes 0x050 5 = [0xF0, 0x90, 0x90, 0x90, 0xF0] := by decide
/-- K4, K5. -/
theorem test_clock_advance :
    answer { State.reset with fsm := .run } (.clockAdvance 16666667) = .ticks 8 1 1 ∧
      (told { State.reset with fsm := .run } (.clockAdvance 16666667)).accCpu = 333333500 ∧
      answer { State.reset with fsm := .waitKey, accCpu := 700000000 } (.clockAdvance 1000000000) = .ticks 0 60 60 ∧
      (told { State.reset with fsm := .waitKey, accCpu := 700000000 } (.clockAdvance 1000000000)).accCpu = 0 := by
  decide
/-- F5. -/
theorem test_take_dirty :
    answer { State.reset with dirty := true } .takeDirty = .dirty true ∧
      answer (told { State.reset with dirty := true } .takeDirty) .takeDirty = .dirty false := by decide
/-- M6 through `dump`: the font's bytes, and the entry point. -/
theorem test_dump :
    State.reset.toDump.mem[(0x050 : Addr).toNat] = 0xF0 ∧ State.reset.toDump.mem[(0xFFF : Addr).toNat] = 0 ∧
      State.reset.toDump.pc = 0x200 := by
  rw [State.toDump_mem, State.toDump_mem]; decide
/-- F1, F4: only reset leaves `HALT`. -/
theorem test_reset_leaves_halt :
    let h := stateOf (cpuStep 0 State.reset)
    told h (.cpuStep 7) = h ∧ answer h (.cpuStep 7) = .stepped .halted ∧ (told h .reset).fsm = .load ∧
      (told h .reset).fault = ⟨.none, 0, 0⟩ := by decide

/-- E7, one step through `step` itself, the free draw unread. -/
theorem test_step_runs_the_placed_word :
    step (State.reset.withFetchWord 16 0x6005) =
      .next { (State.reset.withFetchWord 16 0x6005).setReg 0 5 with
        fsm := .run, pc := 0x202, draws := 1, rnd := Config.draw 0 } := rfl

/-! ## Witnesses: states and operands that meet the hypotheses of the statements, each clause at its boundary -/

/-- Reset with the word stored at `pc`. -/
def placed (w : Nat) : State := State.reset.placeWord 16 w

/-- A waiting core. -/
def waiting : State := { State.reset with fsm := .waitKey, waitTarget := 15 }

/-- A halted core. -/
def halted : State := State.reset.takeFault .stackUnderflow 0x00EE 0x200

/-- Reset with the flag written first. -/
def flagFirst : State := withProfile fun c => { c with flagOrder := .flagFirst }

theorem test_witness_DecodeOfEncodeIsTheInstruction : WellFormed (.sys 0x123) ∧ WellFormed (.drw 15 15 15) := by decide

theorem test_witness_EncodeOfDecodeIsTheWord : decode 0xFFFF = .error .illegalF ∧ decode 0xFF65 = .ok (.ldRegs 15) := by
  decide

/-- A word of SYS's row that is CLS's, and one that is SYS's. -/
theorem test_witness_DecodedWordLiesInItsRowOnly :
    decode 0x00E0 = .ok .cls ∧ (⟨0x00E0, 0xFFFF⟩ : OpcodeRow) ∈ legalRows ∧
      (⟨0x00E0, 0xFFFF⟩ : OpcodeRow).hits 0x00E0 = true ∧ (⟨0x0000, 0xF000⟩ : OpcodeRow).hits 0x00E0 = true ∧
      decode 0x00E1 = .ok (.sys 0x0E1) ∧ (⟨0x0000, 0xF000⟩ : OpcodeRow).hits 0x00E1 = true := by decide

theorem test_witness_StepRunsTheDecodedInstruction :
    (placed 0x6005).inbox = [] ∧ Runs (placed 0x6005) ∧ decode (placed 0x6005).fetchWord = .ok (.ldImm 0 5) :=
  ⟨rfl, .inl rfl, by decide⟩

theorem test_witness_CpuStepRunsTheDecodedInstruction :
    Runs (placed 0xF10A) ∧ decode (placed 0xF10A).fetchWord = .ok (.ldVxK 1) ∧
      exec (.ldVxK 1) { placed 0xF10A with fsm := .run, rnd := 9, draws := (placed 0xF10A).draws + 1 } =
        .next { placed 0xF10A with fsm := .waitKey, waitTarget := 1, pc := 0x202, rnd := 9, draws := 1 } :=
  ⟨.inl rfl, by decide, rfl⟩

/-- Both sides of the equivalence: a SYS word, an unlisted word, and a legal word. -/
theorem test_witness_IllegalWordHalts :
    (placed 0x0123).inbox = [] ∧ Runs (placed 0x0123) ∧ Runs { placed 0x5011 with fsm := .run } ∧
      (∀ r ∈ legalRows, r.hits (placed 0x0123).fetchWord = false) ∧
      (∀ r ∈ legalRows, r.hits (placed 0x5011).fetchWord = false) ∧
      ¬ ∀ r ∈ legalRows, r.hits (placed 0x5010).fetchWord = false :=
  ⟨rfl, .inl rfl, .inr rfl, by decide, by decide, by decide⟩

theorem test_witness_HaltedOrWaitingStepChangesNothing :
    halted.fsm = .halt ∧ halted.inbox = [] ∧ waiting.fsm = .waitKey ∧ waiting.inbox = [] := by decide

theorem test_witness_StepTakesTheOldestCommand :
    ({ State.reset with inbox := [.takeDirty, .timerTick] } : State).inbox = .takeDirty :: [.timerTick] ∧
      runCommand .takeDirty { State.reset with inbox := [.timerTick] } =
        .next ({ State.reset with inbox := [.timerTick] }, .dirty false) := ⟨rfl, rfl⟩

theorem test_witness_FaultsArePrecise :
    Runs (placed 0x1201) ∧
      runCommand (.cpuStep 0) (placed 0x1201) = .next (faulted State.reset .misalignedPc 0x1201, .stepped .halted) ∧
      (faulted State.reset .misalignedPc 0x1201).fsm = .halt := ⟨.inl rfl, rfl, rfl⟩

theorem test_witness_RetPopsTheStack : State.reset.sp = 0 ∧ (State.reset.push 0x206).sp ≠ 0 := by decide

theorem test_witness_JpGoesToItsTarget : (0xFFF#12).toNat % 2 = 1 ∧ (0xFFE#12).toNat % 2 = 0 := by decide

/-- An odd target, a full stack, and the last free entry. -/
theorem test_witness_CallPushesTheReturnAddress :
    State.reset.stack.length = State.reset.cfg.stackDepth ∧ State.reset.sp ≤ State.reset.cfg.stackDepth ∧
      (0x301#12).toNat % 2 = 1 ∧ (0x300#12).toNat % 2 = 0 ∧
      ({ State.reset with sp := 16 } : State).sp = State.reset.cfg.stackDepth ∧
      ({ State.reset with sp := 15 } : State).sp < State.reset.cfg.stackDepth := by decide

theorem test_witness_CallThenRetReturns :
    ({ State.reset with sp := 15 } : State).stack.length = State.reset.cfg.stackDepth ∧
      ({ State.reset with sp := 15 } : State).sp < State.reset.cfg.stackDepth ∧ (0x210#12).toNat % 2 = 0 := by decide

theorem test_witness_SysIsIllegal : 0x0E1#12 ≠ 0x0E0#12 ∧ 0x0E1#12 ≠ 0x0EE#12 := by decide

/-- An odd sum, and an even one past 0xFFF. -/
theorem test_witness_JpV0AddsV0 :
    ((0x300#12).toNat + ((regs 1 0).reg 0).toNat) % 2 = 1 ∧
      ((0xFFE#12).toNat + ((regs 4 0).reg 0).toNat) % 2 = 0 := by decide

theorem test_witness_CopyAndLogicWriteNoFlag :
    (Instr.xorReg 15 1, (regs 0 7).reg 15 ^^^ (regs 0 7).reg 1) ∈
      [(Instr.ldReg 15 1, (regs 0 7).reg 1), (.orReg 15 1, (regs 0 7).reg 15 ||| (regs 0 7).reg 1),
        (.andReg 15 1, (regs 0 7).reg 15 &&& (regs 0 7).reg 1),
        (.xorReg 15 1, (regs 0 7).reg 15 ^^^ (regs 0 7).reg 1)] := by decide

/-- Another destination, `VF` with the flag last, and `VF` with the flag first. -/
theorem test_witness_AddSetsCarry :
    (14 : Nibble) ≠ 15 ∧ State.reset.cfg.flagOrder = .flagLast ∧ flagFirst.cfg.flagOrder = .flagFirst := by decide

theorem test_witness_SubtractsSetNotBorrow :
    (Instr.subn 15 1, (regs 0 7).reg 1, (regs 0 7).reg 15) ∈
        [(Instr.subReg 15 1, (regs 0 7).reg 15, (regs 0 7).reg 1),
          (.subn 15 1, (regs 0 7).reg 1, (regs 0 7).reg 15)] ∧
      (14 : Nibble) ≠ 15 ∧ State.reset.cfg.flagOrder = .flagLast ∧ flagFirst.cfg.flagOrder = .flagFirst := by decide

theorem test_witness_ShiftsSetTheBitShiftedOut :
    (7 : Byte) = (if (withProfile fun c => { c with shiftSource := .vy }).cfg.shiftSource = .vx
        then (regs 0 7).reg 0 else (regs 0 7).reg 1) ∧
      (0x80 : Byte) = (if State.reset.cfg.shiftSource = .vx then (regs 0x80 7).reg 0 else (regs 0x80 7).reg 1) ∧
      (Instr.shl 0 1, (0x80 : Byte) <<< 1, (0x80 : Byte).toNat / 128) ∈
        [(Instr.shr 0 1, (0x80 : Byte) >>> 1, (0x80 : Byte).toNat % 2),
          (.shl 0 1, (0x80 : Byte) <<< 1, (0x80 : Byte).toNat / 128)] ∧
      State.reset.cfg.flagOrder = .flagLast ∧ flagFirst.cfg.flagOrder = .flagFirst := by decide

theorem test_witness_RndMasksTheDraw :
    Runs (placed 0xC50F) ∧ (placed 0xC50F).fetchWord = 0xC#4 ++ (5 : Nibble) ++ (0x0F : Byte) :=
  ⟨.inl rfl, by decide⟩

theorem test_witness_OnlyRndReadsTheDraw :
    (∀ x nn, Instr.cls ≠ .rnd x nn) ∧
      exec .cls State.reset = .next { State.reset with dirty := true, pc := 0x202 } :=
  ⟨fun _ _ h => Instr.noConfusion h, rfl⟩

/-- A pixel the sprite covers (the last inside the edge), and one it does not. -/
theorem test_witness_DrwTogglesTheSpritesPixels :
    Draws (sprite State.reset 56 0 [0x01]) 0 1 1 (0, 63) ∧
      ¬ Draws (sprite State.reset 56 0 [0x01]) 0 1 0 (0, 63) :=
  ⟨⟨0, 7, by decide, by decide, by decide, by decide⟩, fun ⟨_, _, h, _⟩ => Nat.not_lt_zero _ h⟩

/-- A draw that collides, and one that cannot. -/
theorem test_witness_DrwTogglesTheSpritesPixels_collision :
    (∃ p, Draws (sprite { State.reset with fb := State.reset.fb.toggle (0, 0) } 0 0 [0x80]) 0 1 1 p ∧
        (State.reset.fb.toggle (0, 0)).get p = true) ∧
      ¬ ∃ p, Draws (sprite State.reset 0 0 [0x80]) 0 1 0 p ∧ State.reset.fb.get p = true :=
  ⟨⟨(0, 0), ⟨0, 0, by decide, by decide, by decide, by decide⟩, by decide⟩,
    fun ⟨_, ⟨_, _, h, _⟩, _⟩ => Nat.not_lt_zero _ h⟩

theorem test_witness_DrawingTwiceRestoresTheDisplay : (0 : Nibble) ≠ 15 ∧ (14 : Nibble) ≠ 15 := by decide

/-- A sprite of one pixel: on a display where it is clear, and on one where it is set. -/
theorem test_witness_RepeatedDrawsAlternate :
    (0 : Nibble) ≠ 15 ∧ (1 : Nibble) ≠ 15 ∧ Draws (sprite State.reset 0 0 [0x80]) 0 1 1 (0, 0) ∧
      (∀ p, Draws (sprite State.reset 0 0 [0x80]) 0 1 1 p → (sprite State.reset 0 0 [0x80]).fb.get p = false) ∧
      let s := sprite { State.reset with fb := State.reset.fb.toggle (0, 0) } 0 0 [0x80]
      Draws s 0 1 1 (0, 0) ∧ ∀ p, Draws s 0 1 1 p → s.fb.get p = true := by
  refine ⟨by decide, by decide, ⟨0, 0, by decide, by decide, by decide, by decide⟩,
    fun p _ => Framebuffer.get_clear p, ⟨0, 0, by decide, by decide, by decide, by decide⟩, ?_⟩
  rintro ⟨row, col⟩ ⟨r, c, hr, hc, hbit, hcol, hrow⟩
  obtain rfl : r = 0 := Nat.lt_one_iff.mp hr
  have leftmost : ∀ c < 8, (0x80 : Byte).getLsbD (7 - c) = true → c = 0 := by decide
  obtain rfl : c = 0 := leftmost c hc hbit
  obtain rfl : row = 0 := Fin.ext hrow
  obtain rfl : col = 0 := Fin.ext hcol
  decide

/-- W6 drawn twice: the one drawn pixel is set, and the second draw finds it clear (log entry 10). -/
theorem test_second_draw_of_a_set_pixel :
    let s := sprite { State.reset with fb := State.reset.fb.toggle (0, 0) } 0 0 [0x80]
    (after s 0xD011).reg 15 = 1 ∧ (after ((after s 0xD011).setPc 0x200) 0xD011).reg 15 = 0 ∧
      (after ((after s 0xD011).setPc 0x200) 0xD011).fb = s.fb := by decide

/-- R93's three clauses together hold of no sprite engine that draws a pixel, whatever it does to the display and
however it computes its flag (log entry 10): the third draw of a clear display is a second draw and a first one. -/
theorem test_R93_clauses_contradict (draw : Framebuffer → Framebuffer × Bool) (drawn : Pixel → Prop)
    (restores : ∀ fb, (draw (draw fb).1).1 = fb)
    (first : ∀ fb, (draw fb).2 = true ↔ ∃ p, drawn p ∧ fb.get p = true)
    (second : ∀ fb, (draw (draw fb).1).2 = true) : False := by
  have third := second (draw Framebuffer.clear).1
  rw [restores, first] at third
  obtain ⟨p, _, hp⟩ := third
  rw [Framebuffer.get_clear] at hp
  exact Bool.noConfusion hp

/-- The wait ends; a key already down, a release, and a core that does not wait. -/
theorem test_witness_SetKeyEndsTheWait :
    (waiting.fsm = .waitKey ∧ true = true ∧ waiting.key 15 = false) ∧
      ¬ ((waiting.setKeyBit 15 true).fsm = .waitKey ∧ true = true ∧ (waiting.setKeyBit 15 true).key 15 = false) ∧
      ¬ (waiting.fsm = .waitKey ∧ false = true ∧ waiting.key 15 = false) ∧
      ¬ (State.reset.fsm = .waitKey ∧ true = true ∧ State.reset.key 15 = false) := by decide

/-- A key already down in the wait Fx0A began. -/
theorem test_witness_LdVxKSetsTheLatch :
    exec (.ldVxK 1) (State.reset.setKeyBit 3 true) =
      .next (((State.reset.setKeyBit 3 true).beginWait 1).setPc 0x202) ∧
      (((State.reset.setKeyBit 3 true).beginWait 1).setPc 0x202).key 3 = true := ⟨rfl, by decide⟩

theorem test_witness_FetchIsBigEndian : (0xFFE#12).toNat % 2 = 0 := by decide

theorem test_witness_RegisterSkips : (1 : Nibble) ≠ 0 := by decide

theorem test_witness_AddIMasksTheSum : (withProfile fun c => { c with addIVf := true }).cfg.addIVf = true := by decide

theorem test_witness_StoreRegistersFillsTheBlock :
    15 ≤ (15 : Nibble).toNat ∧ 0 ≤ (0 : Nibble).toNat ∧
      (withProfile fun c => { c with incrementI := true }).cfg.incrementI = true := by decide

theorem test_witness_LoadRegistersReadsTheBlock :
    15 ≤ (15 : Nibble).toNat ∧ 0 ≤ (0 : Nibble).toNat ∧
      (withProfile fun c => { c with incrementI := true }).cfg.incrementI = true := by decide

theorem test_witness_StoreThenLoadRestoresRegisters :
    exec (.stRegs 1) (regs 1 2) = .next (stateOf (exec (.stRegs 1) (regs 1 2))) ∧
      (1 : Nibble).toNat ≤ (1 : Nibble).toNat := ⟨rfl, by decide⟩

theorem test_witness_StoredBytesAreFetched :
    exec (.stRegs 15) (regs 1 2) = .next (stateOf (exec (.stRegs 15) (regs 1 2))) ∧ 14 < (15 : Nibble).toNat :=
  ⟨rfl, by decide⟩

/-- The reference profile, and the least stack with the font as high as it may be. -/
theorem test_witness_ResetLeavesTheResetState :
    State.reset.cfg.Legal ∧
      (withProfile fun c => { c with stackDepth := 12, fontBase := 0x1B0, timeQ := 1 }).cfg.Legal ∧
      (0x1AF#12).toNat < 0x1B0 ∧ 0x1B0 + 80 ≤ (0x200#12).toNat := by decide

/-- Refused, one byte too long, and the longest that fits. -/
theorem test_witness_LoadRomCopiesOrRejects :
    halted.fsm ≠ .load ∧ State.reset.fsm = .load ∧ 3584 < (List.replicate 3585 (0xFF : Byte)).length ∧
      (List.replicate 3584 (0xFF : Byte)).length ≤ 3584 :=
  ⟨by decide, rfl, by rw [List.length_replicate]; decide, by rw [List.length_replicate]⟩

theorem test_witness_TimerTickCountsDown : halted.fsm = .halt ∧ State.reset.fsm ≠ .halt := by decide

theorem test_witness_TimerTicksCountDownTogether :
    let s := { State.reset with inbox := [.timerTick, .timerTick, .takeDirty] }
    s.fsm ≠ .halt ∧ s.inbox = List.replicate 2 .timerTick ++ [.takeDirty] := by decide

theorem test_witness_ClockAdvanceCountsTicks :
    0 < State.reset.cfg.timeQ ∧ waiting.fsm = .waitKey ∧ State.reset.fsm ≠ .waitKey := by decide

theorem test_witness_ClockTotalsIgnoreThePartition :
    0 < State.reset.cfg.timeQ ∧ State.reset.fsm ≠ .waitKey ∧ State.reset.accCpu = 0 ∧ State.reset.accTimer = 0 ∧
      State.reset.accFrame = 0 ∧ [333333333, 333333333, 333333334].sum = State.reset.cfg.timeQ := by decide

theorem test_witness_ResetMeetsTheInvariant :
    (withProfile fun c => { c with stackDepth := 12, drawWrap := true }).cfg.Legal := by decide

/-- A state other than reset's with the invariant: one return address on the stack, a halted core, a byte stored. -/
def someInv : State := (((State.reset.push 0x206).writeByte 0xFFF 1).setI 0xFFF).takeFault .illegalInstruction 0 0x200

theorem test_someInv : Inv someInv where
  legal := by decide
  pcEven := by decide
  indexRange := by decide
  stackShape := by decide
  depth := by decide
  stackEven := by intro k hk; obtain rfl : k = 0 := Nat.lt_one_iff.mp hk; decide
  accCpu := by decide
  accTimer := by decide
  accFrame := by decide
  faultKind := by decide
  memory := by decide

theorem test_witness_EveryCommandKeepsTheInvariant :
    Inv someInv ∧ runCommand (.cpuStep 0) someInv = .next (someInv, .stepped .halted) := ⟨test_someInv, rfl⟩

theorem test_witness_EveryStepKeepsTheInvariant : Inv someInv ∧ step someInv = .next someInv := ⟨test_someInv, rfl⟩

theorem test_witness_ParametersNeverChange :
    runCommand .takeDirty halted = .next (halted, .dirty false) ∧ flagFirst.cfg ≠ State.reset.cfg ∧
      (∀ a, ({ State.reset with cfg := flagFirst.cfg } : State).readByte a = State.reset.readByte a) ∧
      Command.dump ∈ [Command.takeDirty, .framebuffer, .soundActive, .status, .dump] :=
  ⟨rfl, by decide, fun _ => rfl, by decide⟩

/-- The clauses in turn: reset; a ROM that fits and one that does not; a wait begun; a step that goes on and one that
halts; a wait ended; `HALT` kept; and the rest. -/
theorem test_witness_FsmTransitions :
    runCommand .reset halted = .next (State.reset, .done) ∧
      runCommand (.loadRom []) State.reset = .next (State.reset, .loaded) ∧ State.reset.fsm = .load ∧
      (runCommand (.loadRom (List.replicate 3585 0)) State.reset =
          .next (loadRom (List.replicate 3585 0) State.reset) ∧ ¬ (List.replicate 3585 (0 : Byte)).length ≤ 3584) ∧
      (Runs (placed 0xF10A) ∧ decode (placed 0xF10A).fetchWord = .ok (.ldVxK 1)) ∧
      (Runs (placed 0x00EE) ∧ ∀ x, decode (placed 0x00EE).fetchWord ≠ .ok (.ldVxK x)) ∧
      (waiting.fsm = .waitKey ∧ waiting.key 3 = false) ∧ halted.fsm = .halt ∧
      (waiting.fsm = .waitKey ∧ (waiting.setKeyBit 3 true).key 3 = true) :=
  ⟨rfl, rfl, rfl, ⟨rfl, by rw [List.length_replicate]; decide⟩, ⟨.inl rfl, by decide⟩, ⟨.inl rfl, by decide⟩,
    by decide, rfl, by decide⟩

theorem test_witness_HaltKeepsTheStateUntilReset :
    halted.fsm = .halt ∧ Command.setKey 2 true ≠ .reset ∧
      runCommand (.setKey 2 true) halted = .next (halted.setKeyBit 2 true, .done) :=
  ⟨rfl, by decide, rfl⟩

theorem test_witness_OnlyFlagWritersChangeVF :
    exec (.ldImm 15 7) State.reset = .next ((State.reset.setReg 15 7).setPc 0x202) ∧
      ((State.reset.setReg 15 7).setPc 0x202).reg 15 ≠ State.reset.reg 15 := ⟨rfl, by decide⟩

theorem test_witness_OnlyTheListedInstructionsWrite :
    exec (.ldDtVx 0) (regs 60 0) = .next (((regs 60 0).setDt 60).setPc 0x202) := rfl

theorem test_witness_HostCommandsWriteNoRegisters :
    Command.setKey 9 true ≠ .reset ∧ (∀ rnd, Command.setKey 9 true ≠ .cpuStep rnd) ∧
      runCommand (.setKey 9 true) waiting = .next ((waiting.setKeyBit 9 true).endWait 9, .done) :=
  ⟨by decide, fun _ h => Command.noConfusion h, rfl⟩

end Sys2Proof.Machine.Tests
end

section
/-! SUPPORT. What the commands of the interface can do (00_scope.md R8): each answers a next state, keeps the
parameters, and changes the pieces its rule names. -/

namespace Sys2Proof.Machine

variable (s : State)

/-! ## Every command and every step has a next state -/

theorem cpuStep_next (rnd : Byte) : ∃ t, cpuStep rnd s = .next t := by
  rcases cpuStep_cases s rnd with ⟨-, h⟩ | ⟨-, -, h⟩ | ⟨-, i, -, h⟩
  · exact ⟨_, h⟩
  · exact ⟨_, h⟩
  · rw [h]; exact exec_next _ i

/-- `cpu_step` as a command: its next state, with the status read from it. -/
theorem runCommand_cpuStep {s t : State} {rnd : Byte} (h : cpuStep rnd s = .next t) :
    runCommand (.cpuStep rnd) s = .next (t, .stepped (stepStatus t)) := by
  simp only [runCommand, h]

theorem cpuStep_of_runCommand {s t : State} {rnd : Byte} {r : Response}
    (h : runCommand (.cpuStep rnd) s = .next (t, r)) : cpuStep rnd s = .next t := by
  obtain ⟨u, hu⟩ := cpuStep_next s rnd
  rw [runCommand_cpuStep hu] at h
  cases h
  exact hu

theorem runCommand_next (c : Command) : ∃ t r, runCommand c s = .next (t, r) := by
  cases c with
  | cpuStep rnd =>
    obtain ⟨t, ht⟩ := cpuStep_next s rnd
    exact ⟨t, _, runCommand_cpuStep ht⟩
  | _ => exact ⟨_, _, rfl⟩

/-- A step with no command waiting is a `cpu_step` with the free draw (log entry 4). -/
theorem step_of_inbox_nil {s : State} (h : s.inbox = []) : step s = cpuStep (Config.draw s.draws) s := by
  simp only [step, nextTransition, h]

/-- A step with a command waiting is that command's transition (log entry 3). -/
theorem step_of_inbox_cons {s t : State} {c : Command} {rest : List Command} {r : Response}
    (h : s.inbox = c :: rest) (hc : runCommand c { s with inbox := rest } = .next (t, r)) : step s = .next t := by
  simp only [step, nextTransition, h, hc]

/-! ## The cases of the commands that branch -/

theorem loadRom_cases (data : List Byte) :
    (s.fsm ≠ .load ∧ loadRom data s = (s, .refused)) ∨
      (s.fsm = .load ∧ romMax < data.length ∧ loadRom data s = (s.takeFault .loadError 0 0, .loadError)) ∨
      (s.fsm = .load ∧ data.length ≤ romMax ∧ loadRom data s = (s.writeBytes romBase data, .loaded)) := by
  unfold loadRom
  cases hf : s.fsm with
  | load => by_cases hl : romMax < data.length <;> simp [hl, Nat.le_of_not_lt]
  | _ => simp

theorem setKey_cases (code : Nibble) (down : Bool) :
    (s.fsm = .waitKey ∧ down = true ∧ s.key code = false ∧
        setKey code down s = (s.setKeyBit code true).endWait code) ∨
      (¬ (s.fsm = .waitKey ∧ down = true ∧ s.key code = false) ∧ setKey code down s = s.setKeyBit code down) := by
  unfold setKey
  split
  · next h => obtain ⟨hf, rfl, hk⟩ := h; exact .inl ⟨hf, rfl, hk, rfl⟩
  · next h => exact .inr ⟨h, rfl⟩

theorem timerTick_cases :
    (s.fsm = .halt ∧ timerTick s = s) ∨
      (s.fsm ≠ .halt ∧ timerTick s = (s.setDt (countDown s.dt)).setSt (countDown s.st)) := by
  unfold timerTick
  cases hf : s.fsm <;> simp [State.setDt, State.setSt, hf]

/-! ## Their frames -/

theorem loadRom_frame (data : List Byte) :
    OnlyChanges s (loadRom data s).1
      (fun p => s.fsm = .load ∧ (p ∈ [.fault, .fsm] ∨ ∃ a, p = .byte a)) := by
  rcases loadRom_cases s data with ⟨-, h⟩ | ⟨hf, -, h⟩ | ⟨hf, -, h⟩ <;> rw [h]
  · exact OnlyChanges.refl _ _
  · exact (s.takeFault_frame _ _ _).mono fun p hp => ⟨hf, .inl hp⟩
  · exact (s.writeBytes_frame _ _).mono fun p ⟨_, _, hp⟩ => ⟨hf, .inr ⟨_, hp⟩⟩

theorem setKey_frame (code : Nibble) (down : Bool) :
    OnlyChanges s (setKey code down s) (fun p =>
      p = .key code ∨ (s.fsm = .waitKey ∧ down = true ∧ p ∈ [.reg s.waitTarget, .fsm])) := by
  rcases setKey_cases s code down with ⟨hf, rfl, -, h⟩ | ⟨-, h⟩ <;> rw [h]
  · exact ((s.setKeyBit_frame code true).of_these (by simp)).trans
      ((State.endWait_frame _ code).mono fun p hp => .inr ⟨hf, rfl, hp⟩)
  · exact (s.setKeyBit_frame code down).of_these (by simp)

theorem clockAdvance_frame (elapsed : Nat) :
    OnlyChanges s (clockAdvance elapsed s).1 (These [.accCpu, .accTimer, .accFrame]) := by
  intro p hp
  cases p with
  | accCpu | accTimer | accFrame => simp [These] at hp
  | _ => rfl

theorem timerTick_frame : OnlyChanges s (timerTick s) (These [.delay, .sound]) := by
  rcases timerTick_cases s with ⟨-, h⟩ | ⟨-, h⟩ <;> rw [h]
  · exact OnlyChanges.refl _ _
  · exact ((s.setDt_frame _).of_these (by simp [These])).trans
      ((State.setSt_frame _ _).of_these (by simp [These]))

theorem takeDirty_frame : OnlyChanges s (takeDirty s) (These [.dirty]) := by
  intro p hp
  cases p with
  | dirty => simp [These] at hp
  | _ => rfl

/-! ## The parameters stay (R6) -/

@[simp] theorem State.writeBytes_cfg (e : Nat) (bs : List Byte) : (s.writeBytes e bs).cfg = s.cfg := by
  rw [State.writeBytes_eq]

@[simp] theorem State.setRegs_cfg (k : Nat) (bs : List Byte) : (s.setRegs k bs).cfg = s.cfg := by
  rw [State.setRegs_eq]

@[simp] theorem State.writeFlagged_cfg (x : Nibble) (o : AluOut) : (s.writeFlagged x o).cfg = s.cfg := by
  rw [State.writeFlagged_eq]

@[simp] theorem State.stepIndex_cfg (x : Nibble) : (s.stepIndex x).cfg = s.cfg := by
  rw [State.stepIndex_eq]

@[simp] theorem State.writeIndexFlag_cfg (f : Bool) : (s.writeIndexFlag f).cfg = s.cfg := by
  unfold State.writeIndexFlag; split <;> rfl

@[simp] theorem State.skipIf_cfg (c : Bool) : (s.skipIf c).cfg = s.cfg := by rw [State.skipIf_eq]; rfl

@[simp] theorem State.advance_cfg : s.advance.cfg = s.cfg := rfl

@[simp] theorem State.raise_cfg (k : FaultKind) (i : Instr) : (s.raise k i).cfg = s.cfg := rfl

variable {s} {t : State}

/-- No instruction writes the parameters. -/
theorem exec_cfg {i : Instr} (h : exec i s = .next t) : t.cfg = s.cfg := by
  cases i with
  | ret | jp | jpV0 | call => cases h; simp [apply_ite State.cfg]
  | seImm | sneImm | seReg | sneReg | skp | sknp => cases h; exact s.skipIf_cfg _
  | addReg | subReg | shr | subn | shl => cases h; exact s.writeFlagged_cfg _ _
  | addI | ldB | stRegs | ldRegs => cases h; simp
  | _ => cases h; rfl

theorem cpuStep_cfg {rnd : Byte} (h : cpuStep rnd s = .next t) : t.cfg = s.cfg := by
  rcases cpuStep_cases s rnd with ⟨-, h'⟩ | ⟨-, -, h'⟩ | ⟨-, i, -, h'⟩ <;> rw [h'] at h
  · cases h; rfl
  · cases h; rfl
  · exact (exec_cfg h).trans (s.beginStep_cfg rnd)

theorem runCommand_cfg {c : Command} {r : Response} (h : runCommand c s = .next (t, r)) : t.cfg = s.cfg := by
  cases c with
  | cpuStep rnd => exact cpuStep_cfg (cpuStep_of_runCommand h)
  | loadRom data =>
    have ht : loadRom data s = (t, r) := Host.Outcome.next.inj h
    have hp := loadRom_frame s data .params (by simp)
    rwa [ht] at hp
  | setKey code down => cases h; exact setKey_frame s code down .params (by simp)
  | timerTick => cases h; exact timerTick_frame s .params (by simp [These])
  | _ => cases h; rfl

/-- What `dump` answers depends on the parameters through the bytes of memory alone (R126). -/
theorem State.toDump_withCfg {s : State} {c : Config}
    (h : ∀ a, ({ s with cfg := c } : State).readByte a = s.readByte a) :
    ({ s with cfg := c } : State).toDump = s.toDump := by
  have hread : ({ s with cfg := c } : State).readByte = s.readByte := funext h
  simp only [State.toDump, State.readBytes, hread]

end Sys2Proof.Machine
end

section
/-! SUPPORT. The `rnd` argument of a step: no operation but RND's reads it (00_scope.md R9). -/

namespace Sys2Proof.Machine

/-- The state with another `rnd` argument. -/
def State.withRnd (s : State) (b : Byte) : State := { s with rnd := b }

variable (s : State) (b : Byte)

theorem State.writeBytes_withRnd (e : Nat) (bs : List Byte) :
    (s.withRnd b).writeBytes e bs = (s.writeBytes e bs).withRnd b := by
  induction bs generalizing s e with
  | nil => rfl
  | cons v bs ih => exact ih (s.writeByte (maskAddr e) v) (e + 1)

theorem State.setRegs_withRnd (k : Nat) (bs : List Byte) :
    (s.withRnd b).setRegs k bs = (s.setRegs k bs).withRnd b := by
  induction bs generalizing s k with
  | nil => rfl
  | cons v bs ih => exact ih (s.setReg (BitVec.ofNat 4 k) v) (k + 1)

theorem State.writeFlagged_withRnd (x : Nibble) (o : AluOut) :
    (s.withRnd b).writeFlagged x o = (s.writeFlagged x o).withRnd b := by
  unfold State.writeFlagged State.withRnd
  cases s.cfg.flagOrder <;> rfl

theorem State.skipIf_withRnd (c : Bool) : (s.withRnd b).skipIf c = (s.skipIf c).withRnd b := by
  cases c <;> rfl

theorem State.writeIndexFlag_withRnd (f : Bool) :
    (s.withRnd b).writeIndexFlag f = (s.writeIndexFlag f).withRnd b := by
  unfold State.writeIndexFlag
  rw [apply_ite (State.withRnd · b)]
  rfl

theorem State.stepIndex_withRnd (x : Nibble) : (s.withRnd b).stepIndex x = (s.stepIndex x).withRnd b := by
  unfold State.stepIndex
  rw [apply_ite (State.withRnd · b)]
  rfl

theorem State.advance_withRnd : (s.withRnd b).advance = s.advance.withRnd b := rfl

variable {s} {t : State}

/-- An instruction other than RND takes a state with another `rnd` to the same state with that `rnd`. -/
theorem exec_withRnd {i : Instr} (hi : ∀ x nn, i ≠ .rnd x nn) (h : exec i s = .next t) :
    exec i (s.withRnd b) = .next (t.withRnd b) := by
  cases i with
  | rnd x nn => exact absurd rfl (hi x nn)
  | ret | jp | jpV0 | call => cases h; simp only [apply_ite (State.withRnd · b)]; rfl
  | seImm | sneImm | seReg | sneReg | skp | sknp => cases h; rw [← State.skipIf_withRnd]; rfl
  | addReg | subReg | shr | subn | shl =>
    cases h; rw [← State.advance_withRnd, ← State.writeFlagged_withRnd]; rfl
  | addI => cases h; rw [← State.advance_withRnd, ← State.writeIndexFlag_withRnd]; rfl
  | ldB => cases h; rw [← State.advance_withRnd, ← State.writeBytes_withRnd]; rfl
  | stRegs =>
    cases h; rw [← State.advance_withRnd, ← State.stepIndex_withRnd, ← State.writeBytes_withRnd]; rfl
  | ldRegs =>
    cases h; rw [← State.advance_withRnd, ← State.stepIndex_withRnd, ← State.setRegs_withRnd]; rfl
  | _ => cases h; rfl

end Sys2Proof.Machine
end

section
/-! The statements of 00_scope.md: the interface's commands, the draw, and the parameters. -/

namespace Sys2Proof.Machine

/-- Settles O29, from what each instruction does to a state with another `rnd`. -/
theorem onlyRndReadsTheDraw : Obligations.OnlyRndReadsTheDraw :=
  fun _ _ _ rnd hi h => exec_withRnd rnd hi h

/-- Settles O60, from the frame of each command. -/
theorem hostCommandsWriteNoRegisters : Obligations.HostCommandsWriteNoRegisters := by
  intro c s t r hreset hstep h
  cases c with
  | reset => exact absurd rfl hreset
  | cpuStep rnd => exact absurd rfl (hstep rnd)
  | loadRom data =>
    have ht : loadRom data s = (t, r) := Host.Outcome.next.inj h
    have hframe := loadRom_frame s data
    rw [ht] at hframe
    refine hframe.mono ?_
    rintro p ⟨hload, hp | ⟨a, rfl⟩⟩
    · rcases List.mem_pair.1 hp with rfl | rfl
      · exact ⟨data, rfl⟩
      · trivial
    · exact ⟨hload, data, rfl⟩
  | setKey code down =>
    cases h
    refine (setKey_frame s code down).mono ?_
    rintro p (rfl | ⟨hwait, rfl, hp⟩)
    · exact ⟨code, down, rfl⟩
    · rcases List.mem_pair.1 hp with rfl | rfl
      · exact ⟨rfl, hwait, code, rfl⟩
      · trivial
  | clockAdvance elapsed => cases h; exact (clockAdvance_frame s elapsed).of_these (by simp)
  | timerTick => cases h; exact (timerTick_frame s).of_these (by simp)
  | takeDirty => cases h; exact (takeDirty_frame s).of_these (by simp)
  | framebuffer | soundActive | status | dump => cases h; exact OnlyChanges.refl s _

/-- Settles O11: the inbox holds a command, so `step` is that command's transition. -/
theorem stepTakesTheOldestCommand : Obligations.StepTakesTheOldestCommand :=
  fun _ _ _ _ _ hinbox hc => step_of_inbox_cons hinbox hc

/-- Settles O12, by cases on the inbox: every command answers a next state. -/
theorem stepAlwaysAnswersANextState : Obligations.StepAlwaysAnswersANextState := by
  intro s
  cases hinbox : s.inbox with
  | nil => rw [step_of_inbox_nil hinbox]; exact cpuStep_next s _
  | cons c rest =>
    obtain ⟨t, r, hc⟩ := runCommand_next { s with inbox := rest } c
    exact ⟨t, step_of_inbox_cons hinbox hc⟩

/-- Settles O55: no command writes the parameters, and of the queries only `dump` looks at them, through memory. -/
theorem parametersNeverChange : Obligations.ParametersNeverChange := by
  refine ⟨fun _ _ _ _ h => runCommand_cfg h, fun s c hbytes q hq => ?_⟩
  simp only [List.mem_cons, List.not_mem_nil, or_false] at hq
  rcases hq with rfl | rfl | rfl | rfl | rfl
  · exact ⟨_, _, _, rfl, rfl⟩
  · exact ⟨_, _, _, rfl, rfl⟩
  · exact ⟨_, _, _, rfl, rfl⟩
  · exact ⟨_, _, _, rfl, rfl⟩
  · exact ⟨_, _, _, rfl, by rw [runCommand, State.toDump_withCfg hbytes]⟩

end Sys2Proof.Machine
end

section
/-! SUPPORT. What each instruction may change: the frame of every arm of `exec` (10_state.md R13, the writers). -/

namespace Sys2Proof.Machine

@[simp] theorem these_iff {ps : List Piece} {p : Piece} : These ps p ↔ p ∈ ps := Iff.rfl

/-- The pieces an instruction may change in `s`; where it can take a fault, the record and `fsm` are among them. -/
@[simp] def Writes (s : State) : Instr → Piece → Prop
  | .cls => fun q => q ∈ [.dirty, .pc] ∨ ∃ p, q = .pixel p
  | .ret => These [.sp, .pc, .fault, .fsm]
  | .sys _ => These [.fault, .fsm]
  | .jp _ | .jpV0 _ => These [.pc, .fault, .fsm]
  | .call _ => These [.stackEntry s.sp, .sp, .pc, .fault, .fsm]
  | .seImm _ _ | .sneImm _ _ | .seReg _ _ | .sneReg _ _ | .skp _ | .sknp _ => These [.pc]
  | .ldImm x _ | .addImm x _ | .rnd x _ | .ldVxDt x => These [.reg x, .pc]
  | .ldReg x _ | .orReg x _ | .andReg x _ | .xorReg x _ => These [.reg x, .pc]
  | .addReg x _ | .subReg x _ | .shr x _ | .subn x _ | .shl x _ => These [.reg x, .reg regF, .pc]
  | .drw _ _ _ => fun q => q ∈ [.reg regF, .dirty, .pc] ∨ ∃ p, q = .pixel p
  | .ldVxK _ => These [.fsm, .waitTarget, .pc]
  | .ldDtVx _ => These [.delay, .pc]
  | .ldStVx _ => These [.sound, .pc]
  | .ldI _ | .ldF _ => These [.index, .pc]
  | .addI _ => fun q => q ∈ [.index, .pc] ∨ (s.cfg.addIVf = true ∧ q = .reg regF)
  | .ldB _ => fun q => q = .pc ∨ ∃ k, k < 3 ∧ q = .byte (maskAddr (s.i.toNat + k))
  | .stRegs x => fun q => q = .pc ∨ (s.cfg.incrementI = true ∧ q = .index) ∨
      ∃ k, k ≤ x.toNat ∧ q = .byte (maskAddr (s.i.toNat + k))
  | .ldRegs x => fun q => q = .pc ∨ (s.cfg.incrementI = true ∧ q = .index) ∨
      ∃ r : Nibble, r.toNat ≤ x.toNat ∧ q = .reg r

variable {s t u : State} {may : Piece → Prop}

/-! ## How an arm of `exec` is put together -/

/-- Going on to the next instruction changes `pc`. -/
theorem OnlyChanges.advance (h : OnlyChanges s t may) (hpc : may .pc) : OnlyChanges s t.advance may :=
  h.trans (t.advance_frame.of_these (by simpa using hpc))

theorem OnlyChanges.ite {c : Prop} [Decidable c] (ht : OnlyChanges s t may) (hu : OnlyChanges s u may) :
    OnlyChanges s (if c then t else u) may := by
  split
  · exact ht
  · exact hu

theorem State.raise_frame (s : State) (k : FaultKind) (i : Instr) :
    OnlyChanges s (s.raise k i) (These [.fault, .fsm]) := s.takeFault_frame k _ _

theorem State.regsUpTo_length (s : State) (x : Nibble) : (s.regsUpTo x).length = blockLength x := by
  simp [State.regsUpTo]

theorem State.readBytes_length (s : State) (e n : Nat) : (s.readBytes e n).length = n := by
  simp [State.readBytes, blockAddrs]

/-- Moving `I` after a block changes at most `I`, under the quirk of the parameters the block left. -/
theorem State.stepIndex_frame_of_cfg (h : t.cfg = s.cfg) (x : Nibble) :
    OnlyChanges t (t.stepIndex x) (fun q => s.cfg.incrementI = true ∧ q = .index) :=
  h ▸ t.stepIndex_frame x

/-! ## The frame of `exec` -/

theorem execStRegs_frame (s : State) (x : Nibble) :
    OnlyChanges s ((s.writeBytes s.i.toNat (s.regsUpTo x)).stepIndex x).advance (Writes s (.stRegs x)) := by
  have hstore := s.writeBytes_frame s.i.toNat (s.regsUpTo x)
  have hindex := State.stepIndex_frame_of_cfg (s.writeBytes_cfg s.i.toNat (s.regsUpTo x)) x
  rw [State.regsUpTo_length] at hstore
  refine ((hstore.mono ?_).trans (hindex.mono fun q hq => .inr (.inl hq))).advance (.inl rfl)
  rintro q ⟨k, hk, rfl⟩
  exact .inr (.inr ⟨k, Nat.le_of_lt_succ hk, rfl⟩)

theorem execLdRegs_frame (s : State) (x : Nibble) :
    OnlyChanges s ((s.setRegs 0 (s.readBytes s.i.toNat (blockLength x))).stepIndex x).advance
      (Writes s (.ldRegs x)) := by
  have hlen := s.readBytes_length s.i.toNat (blockLength x)
  have hload := s.setRegs_frame 0 (s.readBytes s.i.toNat (blockLength x)) (by
    rw [hlen, Nat.zero_add]; exact x.isLt)
  have hindex := State.stepIndex_frame_of_cfg (s.setRegs_cfg 0 (s.readBytes s.i.toNat (blockLength x))) x
  rw [hlen, Nat.zero_add] at hload
  refine ((hload.mono ?_).trans (hindex.mono fun q hq => .inr (.inl hq))).advance (.inl rfl)
  rintro q ⟨r, -, hr, rfl⟩
  exact .inr (.inr ⟨r, Nat.le_of_lt_succ hr, rfl⟩)

/-- Every instruction changes at most the pieces of its row of `Writes`. -/
theorem exec_frame {i : Instr} (h : exec i s = .next t) : OnlyChanges s t (Writes s i) := by
  cases i with
  | sys => cases h; exact s.raise_frame _ _
  | ret =>
    cases h
    exact .ite ((s.raise_frame _ _).of_these (by simp))
      ((s.pop_frame.of_these (by simp)).trans ((State.setPc_frame _ _).of_these (by simp)))
  | jp | jpV0 =>
    cases h
    exact .ite ((s.raise_frame _ _).of_these (by simp)) ((s.setPc_frame _).of_these (by simp))
  | call nnn =>
    cases h
    have hraise (k : FaultKind) (i : Instr) : OnlyChanges s (s.raise k i) (Writes s (.call nnn)) :=
      (s.raise_frame k i).of_these (by simp)
    exact .ite (hraise _ _) (.ite (hraise _ _)
      (((s.push_frame _).of_these (by simp)).trans ((State.setPc_frame _ _).of_these (by simp))))
  | seImm | sneImm | seReg | sneReg | skp | sknp => cases h; exact s.skipIf_frame _
  | ldImm | addImm | rnd | ldVxDt | ldReg | orReg | andReg | xorReg =>
    cases h; exact ((s.setReg_frame _ _).of_these (by simp)).advance (by simp)
  | addReg | subReg | shr | subn | shl =>
    cases h; exact ((s.writeFlagged_frame _ _).of_these (by simp)).advance (by simp)
  | cls => cases h; exact ((s.setFb_frame _).mono (by simp +contextual)).advance (by simp)
  | drw =>
    cases h
    exact (((s.setFb_frame _).mono (by simp +contextual)).trans
      ((State.setReg_frame _ _ _).of_these (by simp))).advance (by simp)
  | ldVxK => cases h; exact ((s.beginWait_frame _).of_these (by simp)).advance (by simp)
  | ldDtVx => cases h; exact ((s.setDt_frame _).of_these (by simp)).advance (by simp)
  | ldStVx => cases h; exact ((s.setSt_frame _).of_these (by simp)).advance (by simp)
  | ldI | ldF => cases h; exact ((s.setI_frame _).of_these (by simp)).advance (by simp)
  | addI =>
    cases h
    exact (((s.setI_frame _).of_these (by simp)).trans
      ((State.writeIndexFlag_frame _ _).mono fun _ hq => .inr hq)).advance (by simp)
  | ldB => cases h; exact ((s.writeBytes_frame _ _).mono fun _ hq => .inr hq).advance (.inl rfl)
  | stRegs x => cases h; exact execStRegs_frame s x
  | ldRegs x => cases h; exact execLdRegs_frame s x

end Sys2Proof.Machine
end

section
/-! SUPPORT. The invariant of 10_state.md R30, operation by operation, then instruction by instruction and command by
command. -/

namespace Sys2Proof.Machine

variable {s t : State}

/-! ## Updates -/

theorem Inv.setReg (h : Inv s) (r : Nibble) (b : Byte) : Inv (s.setReg r b) := { h with }

theorem Inv.setI (h : Inv s) (e : Nat) : Inv (s.setI e) :=
  { h with indexRange := by rw [State.setI_i, maskIndex_toNat]; exact Nat.mod_lt e (by decide) }

theorem Inv.setPc (h : Inv s) {a : Addr} (ha : a.toNat % 2 = 0) : Inv (s.setPc a) := { h with pcEven := ha }

theorem Inv.setDt (h : Inv s) (b : Byte) : Inv (s.setDt b) := { h with }

theorem Inv.setSt (h : Inv s) (b : Byte) : Inv (s.setSt b) := { h with }

theorem Inv.setFb (h : Inv s) (fb : Framebuffer) : Inv (s.setFb fb) := { h with }

theorem Inv.setKeyBit (h : Inv s) (k : Nibble) (d : Bool) : Inv (s.setKeyBit k d) := { h with }

theorem Inv.withInbox (h : Inv s) (cs : List Command) : Inv { s with inbox := cs } := { h with }

theorem Inv.writeByte (h : Inv s) (a : Addr) (v : Byte) : Inv (s.writeByte a v) :=
  { h with memory := s.wf_writeByte a v h.memory }

theorem Inv.push (h : Inv s) {a : Addr} (ha : a.toNat % 2 = 0) (hroom : s.sp < s.cfg.stackDepth) :
    Inv (s.push a) :=
  { h with
    stackShape := by rw [State.push_stack, List.length_set]; exact h.stackShape
    depth := hroom
    stackEven := by
      intro k hk
      rw [State.stackAt_push _ _ (h.stackShape ▸ hroom)]
      split
      · exact ha
      · next hne => exact h.stackEven k (lt_of_le_of_ne (Nat.le_of_lt_succ hk) hne) }

theorem Inv.pop (h : Inv s) : Inv s.pop :=
  { h with
    depth := (Nat.sub_le _ _).trans h.depth
    stackEven := fun k hk => h.stackEven k (hk.trans_le (Nat.sub_le _ _)) }

theorem Inv.beginWait (h : Inv s) (hf : s.fsm ≠ .halt) (x : Nibble) : Inv (s.beginWait x) :=
  { h with faultKind := by simp [h.faultKind, hf] }

theorem Inv.endWait (h : Inv s) (hf : s.fsm ≠ .halt) (code : Nibble) : Inv (s.endWait code) :=
  { h.setReg s.waitTarget (code.setWidth 8) with faultKind := iff_of_true (h.faultKind.2 hf) (by simp [State.endWait]) }

theorem Inv.beginStep (h : Inv s) (hf : s.fsm ≠ .halt) (rnd : Byte) : Inv (s.beginStep rnd) :=
  { h with faultKind := by simp [h.faultKind, hf] }

theorem Inv.takeFault (h : Inv s) {k : FaultKind} (hk : k ≠ .none) (o : Word) (a : Addr) :
    Inv (s.takeFault k o a) :=
  { h with faultKind := by simp [hk] }

/-! ## Going on, blocks and flags -/

theorem maskAddr_even {e : Nat} (he : e % 2 = 0) : (maskAddr e).toNat % 2 = 0 := by
  rw [maskAddr_toNat]; omega

theorem Inv.npc_even (h : Inv s) : s.npc.toNat % 2 = 0 :=
  maskAddr_even (by have := h.pcEven; omega)

theorem Inv.skipPc_even (h : Inv s) : s.skipPc.toNat % 2 = 0 :=
  maskAddr_even (by have := h.pcEven; omega)

theorem Inv.advance (h : Inv s) : Inv s.advance := h.setPc h.npc_even

theorem Inv.skipIf (h : Inv s) (c : Bool) : Inv (s.skipIf c) := by
  cases c with
  | false => exact h.advance
  | true => exact h.setPc h.skipPc_even

theorem Inv.writeBytes (h : Inv s) (e : Nat) (bs : List Byte) : Inv (s.writeBytes e bs) := by
  induction bs generalizing s e with
  | nil => exact h
  | cons b bs ih => exact ih (h.writeByte (maskAddr e) b) (e + 1)

theorem Inv.setRegs (h : Inv s) (k : Nat) (bs : List Byte) : Inv (s.setRegs k bs) := by
  induction bs generalizing s k with
  | nil => exact h
  | cons b bs ih => exact ih (h.setReg (BitVec.ofNat 4 k) b) (k + 1)

theorem Inv.writeFlagged (h : Inv s) (x : Nibble) (o : AluOut) : Inv (s.writeFlagged x o) := by
  unfold State.writeFlagged
  split
  · exact (h.setReg _ _).setReg _ _
  · exact (h.setReg _ _).setReg _ _

theorem Inv.ite {c : Prop} [Decidable c] (hs : c → Inv s) (ht : ¬ c → Inv t) : Inv (if c then s else t) := by
  split
  · next hc => exact hs hc
  · next hc => exact ht hc

theorem Inv.writeIndexFlag (h : Inv s) (f : Bool) : Inv (s.writeIndexFlag f) :=
  .ite (fun _ => h.setReg _ _) fun _ => h

theorem Inv.stepIndex (h : Inv s) (x : Nibble) : Inv (s.stepIndex x) :=
  .ite (fun _ => h.setI _) fun _ => h

/-! ## Transfers of control -/

theorem not_isOdd {a : Addr} (h : ¬ isOdd a = true) : a.toNat % 2 = 0 := by
  simpa [isOdd] using h

/-- A transfer to `a` takes a fault when `a` is odd, so the `pc` it leaves is even. -/
theorem Inv.jump (h : Inv s) (a : Addr) (i : Instr) :
    Inv (if isOdd a then s.raise .misalignedPc i else s.setPc a) :=
  .ite (fun _ => h.takeFault (by decide) _ _) fun hodd => h.setPc (not_isOdd hodd)

theorem Inv.execRet (h : Inv s) (ht : execRet s = .next t) : Inv t := by
  cases ht
  refine .ite (fun _ => h.takeFault (by decide) _ _) fun hsp => h.pop.setPc ?_
  exact h.stackEven _ (Nat.sub_one_lt hsp)

theorem Inv.execCall (h : Inv s) {nnn : Addr} (ht : execCall nnn s = .next t) : Inv t := by
  cases ht
  refine .ite (fun _ => h.takeFault (by decide) _ _) fun hodd => ?_
  refine .ite (fun _ => h.takeFault (by decide) _ _) fun hroom => ?_
  exact (h.push h.npc_even (Nat.lt_of_not_le hroom)).setPc (not_isOdd hodd)

/-! ## Instructions and commands -/

/-- Every instruction keeps the invariant in a core that has taken no fault. -/
theorem Inv.exec (h : Inv s) (hf : s.fsm ≠ .halt) {i : Instr} (ht : exec i s = .next t) : Inv t := by
  cases i with
  | ret => exact h.execRet ht
  | call => exact h.execCall ht
  | sys => cases ht; exact h.takeFault (by decide) _ _
  | jp | jpV0 => cases ht; exact h.jump _ _
  | seImm | sneImm | seReg | sneReg | skp | sknp => cases ht; exact h.skipIf _
  | ldImm | addImm | rnd | ldVxDt | ldReg | orReg | andReg | xorReg => cases ht; exact (h.setReg _ _).advance
  | addReg | subReg | shr | subn | shl => cases ht; exact (h.writeFlagged _ _).advance
  | cls => cases ht; exact (h.setFb _).advance
  | drw => cases ht; exact ((h.setFb _).setReg _ _).advance
  | ldVxK => cases ht; exact (h.beginWait hf _).advance
  | ldDtVx => cases ht; exact (h.setDt _).advance
  | ldStVx => cases ht; exact (h.setSt _).advance
  | ldI | ldF => cases ht; exact (h.setI _).advance
  | addI => cases ht; exact ((h.setI _).writeIndexFlag _).advance
  | ldB => cases ht; exact (h.writeBytes _ _).advance
  | stRegs => cases ht; exact ((h.writeBytes _ _).stepIndex _).advance
  | ldRegs => cases ht; exact ((h.setRegs _ _).stepIndex _).advance

theorem Runs.not_halt (h : Runs s) : s.fsm ≠ .halt := by
  rcases h with h | h <;> simp [h]

theorem Inv.cpuStep (h : Inv s) {rnd : Byte} (ht : cpuStep rnd s = .next t) : Inv t := by
  rcases cpuStep_cases s rnd with ⟨-, hc⟩ | ⟨hruns, -, hc⟩ | ⟨hruns, i, -, hc⟩ <;> rw [hc] at ht
  · cases ht; exact h
  · cases ht; exact (h.beginStep hruns.not_halt rnd).takeFault (by decide) _ _
  · exact (h.beginStep hruns.not_halt rnd).exec (by simp) ht

theorem timeQ_pos_of_legal {c : Config} (hc : c.Legal) : 0 < c.timeQ := by
  obtain ⟨-, -, -, -, -, hq⟩ := hc
  exact hq

theorem inv_resetWith {c : Config} (hc : c.Legal) : Inv (State.resetWith c) where
  legal := hc
  pcEven := by simp [State.resetWith]
  indexRange := by simp [State.resetWith, memSize]
  stackShape := List.length_replicate
  depth := Nat.zero_le _
  stackEven := fun k hk => absurd hk (Nat.not_lt_zero k)
  accCpu := timeQ_pos_of_legal hc
  accTimer := timeQ_pos_of_legal hc
  accFrame := timeQ_pos_of_legal hc
  faultKind := iff_of_true rfl (by simp [State.resetWith])
  memory := State.wf_resetWith c

theorem Inv.resetCommand (h : Inv s) : Inv (resetCommand s) := { inv_resetWith h.legal with }

theorem Inv.loadRom (h : Inv s) (data : List Byte) : Inv (loadRom data s).1 := by
  rcases loadRom_cases s data with ⟨-, hc⟩ | ⟨-, -, hc⟩ | ⟨-, -, hc⟩ <;> rw [hc]
  · exact h
  · exact h.takeFault (by decide) _ _
  · exact h.writeBytes _ _

theorem Inv.setKey (h : Inv s) (code : Nibble) (down : Bool) : Inv (setKey code down s) := by
  rcases setKey_cases s code down with ⟨hwait, -, -, hc⟩ | ⟨-, hc⟩ <;> rw [hc]
  · exact (h.setKeyBit code true).endWait (by simp [hwait]) code
  · exact h.setKeyBit code down

theorem Inv.timerTick (h : Inv s) : Inv (timerTick s) := by
  rcases timerTick_cases s with ⟨-, hc⟩ | ⟨-, hc⟩ <;> rw [hc]
  · exact h
  · exact (h.setDt _).setSt _

theorem Inv.clockAdvance (h : Inv s) (elapsed : Nat) : Inv (clockAdvance elapsed s).1 := by
  have hq := timeQ_pos_of_legal h.legal
  refine { h with accCpu := ?_, accTimer := Nat.mod_lt _ hq, accFrame := Nat.mod_lt _ hq }
  show (if s.fsm = .waitKey then 0 else streamCarry s.cfg.timeQ s.cfg.cpuHz s.accCpu elapsed) < s.cfg.timeQ
  split
  · exact hq
  · exact Nat.mod_lt _ hq

theorem Inv.takeDirty (h : Inv s) : Inv (takeDirty s) := { h with }

theorem Inv.runCommand (h : Inv s) {c : Command} {r : Response} (ht : runCommand c s = .next (t, r)) : Inv t := by
  cases c with
  | reset => cases ht; exact h.resetCommand
  | loadRom data =>
    have hinv := h.loadRom data
    rwa [Host.Outcome.next.inj ht] at hinv
  | setKey code down => cases ht; exact h.setKey code down
  | clockAdvance elapsed => cases ht; exact h.clockAdvance elapsed
  | cpuStep rnd => exact h.cpuStep (cpuStep_of_runCommand ht)
  | timerTick => cases ht; exact h.timerTick
  | takeDirty => cases ht; exact h.takeDirty
  | framebuffer | soundActive | status | dump => cases ht; exact h

theorem Inv.step (h : Inv s) (ht : step s = .next t) : Inv t := by
  cases hinbox : s.inbox with
  | nil => rw [step_of_inbox_nil hinbox] at ht; exact h.cpuStep ht
  | cons c rest =>
    obtain ⟨u, r, hc⟩ := runCommand_next { s with inbox := rest } c
    obtain rfl : u = t := Host.Outcome.next.inj ((step_of_inbox_cons hinbox hc).symm.trans ht)
    exact (h.withInbox rest).runCommand hc

end Sys2Proof.Machine
end

section
/-! SUPPORT. What a cell of memory holds after reset (20_memory.md R41). -/

namespace Sys2Proof.Machine

variable (c : Config)

theorem Memory.initial_font (d : Fin 16) (r : Fin 5) :
    Memory.initial c (c.fontBase + 5 * d.val + r.val) = (c.fontGlyphs[d.val])[r.val] := by
  have hglyph : (c.fontBase + 5 * d.val + r.val - c.fontBase) / 5 = d.val := by omega
  have hrow : (c.fontBase + 5 * d.val + r.val - c.fontBase) % 5 = r.val := by omega
  rw [Memory.initial, dif_pos (by omega)]
  simp only [hglyph, hrow]

theorem Memory.initial_outside_font {a : Nat} (h : a < c.fontBase ∨ c.fontBase + 80 ≤ a) :
    Memory.initial c a = 0 := dif_neg (by omega)

end Sys2Proof.Machine
end

section
/-! The statements of 10_state.md: the reset state, the invariant, and the writers of each element. -/

namespace Sys2Proof.Machine

/-- Settles O53, command by command. -/
theorem everyCommandKeepsTheInvariant : Obligations.EveryCommandKeepsTheInvariant :=
  fun _ _ _ _ h ht => h.runCommand ht

/-- Settles O54: a step is a `cpu_step` or the oldest command, and both keep the invariant. -/
theorem everyStepKeepsTheInvariant : Obligations.EveryStepKeepsTheInvariant :=
  fun _ _ h ht => h.step ht

/-- Settles O58: the instruction's frame has to hold `VF`, which leaves the flag writers and the destinations. -/
theorem onlyFlagWritersChangeVF : Obligations.OnlyFlagWritersChangeVF := by
  intro i s t h hne
  have hvf : Writes s i (.reg 15) := by
    by_contra hn
    exact hne (exec_frame h _ hn)
  cases i with
  | addReg x y | subReg x y | shr x y | subn x y | shl x y => exact .inl ⟨x, y, by simp⟩
  | drw x y n => exact .inr (.inl ⟨x, y, n, rfl⟩)
  | addI x => exact .inr (.inr (.inl ⟨x, rfl, by simpa using hvf⟩))
  | ldImm x nn | addImm x nn | rnd x nn =>
    obtain rfl : 15 = x := by simpa using hvf
    exact .inr (.inr (.inr (.inl ⟨nn, by simp⟩)))
  | ldReg x y | orReg x y | andReg x y | xorReg x y =>
    obtain rfl : 15 = x := by simpa using hvf
    exact .inr (.inr (.inr (.inr (.inl ⟨y, by simp⟩))))
  | ldVxDt x =>
    obtain rfl : 15 = x := by simpa using hvf
    simp
  | ldRegs x =>
    obtain rfl : x = 15 := by
      have hx : 15 ≤ x.toNat := by simpa using hvf
      exact BitVec.eq_of_toNat_eq (Nat.le_antisymm (Nat.le_of_lt_succ x.isLt) hx)
    simp
  | _ => simp at hvf

/-- Settles O59: each piece of an instruction's frame is one its row of R13 lists. -/
theorem onlyTheListedInstructionsWrite : Obligations.OnlyTheListedInstructionsWrite := by
  intro i s t h
  cases i with
  | cls | drw =>
    refine (exec_frame h).mono ?_
    rintro p (hp | ⟨q, rfl⟩)
    · revert p; simp
    · simp
  | addI =>
    refine (exec_frame h).mono ?_
    rintro p (hp | ⟨-, rfl⟩)
    · revert p; simp
    · trivial
  | ldB =>
    refine (exec_frame h).mono ?_
    rintro p (rfl | ⟨k, -, rfl⟩) <;> simp
  | stRegs =>
    refine (exec_frame h).mono ?_
    rintro p (rfl | ⟨hc, rfl⟩ | ⟨k, -, rfl⟩)
    · trivial
    · exact .inr (.inr ⟨hc, by simp⟩)
    · simp
  | ldRegs =>
    refine (exec_frame h).mono ?_
    rintro p (rfl | ⟨hc, rfl⟩ | ⟨r, -, rfl⟩)
    · trivial
    · exact .inr (.inr ⟨hc, by simp⟩)
    · trivial
  | _ => exact (exec_frame h).of_these (by simp)

/-- Settles O44: memory lists nothing, so that a byte reads as the font or 0. -/
theorem resetLeavesTheResetState : Obligations.ResetLeavesTheResetState := by
  refine ⟨by decide, rfl, fun s hlegal => ⟨resetCommand s, rfl, ?_⟩⟩
  obtain ⟨-, -, hfont, -⟩ := hlegal
  have hreg : ∀ r, (resetCommand s).reg r = 0 := by
    simp [State.reg, resetCommand, State.resetWith]
  have hkey : ∀ k, (resetCommand s).key k = false := by
    simp [State.key, resetCommand, State.resetWith]
  have hglyph : ∀ (d : Fin 16) (r : Fin 5),
      (resetCommand s).readByte (BitVec.ofNat 12 (s.cfg.fontBase + 5 * d.val + r.val)) =
        (s.cfg.fontGlyphs[d.val])[r.val] := by
    intro d r
    have hlt : s.cfg.fontBase + 5 * d.val + r.val < 2 ^ 12 := by
      simp only [fontBytes, romBase] at hfont; omega
    rw [← Memory.initial_font s.cfg d r]
    show Memory.initial s.cfg _ = _
    rw [BitVec.toNat_ofNat, Nat.mod_eq_of_lt hlt]
  exact ⟨hreg, rfl, rfl, rfl, rfl, rfl, rfl, Framebuffer.get_clear, rfl, hkey, rfl, rfl, rfl, rfl, rfl, rfl, hglyph,
    fun a ha => Memory.initial_outside_font s.cfg ha, rfl⟩

/-- Settles O52, from the reset state of a legal setting; the reference profile is one. -/
theorem resetMeetsTheInvariant : Obligations.ResetMeetsTheInvariant :=
  ⟨inv_resetWith (by decide), fun _ => inv_resetWith⟩

end Sys2Proof.Machine
end

section
/-! SUPPORT. The bytes of a stored block and the words fetched from them (20_memory.md R33, R34, R35), and what
placing a word leaves of the sequencer. -/

namespace Sys2Proof.Machine

/-! ## Addresses and words -/

@[simp] theorem maskAddr_of_toNat (a : Addr) : maskAddr a.toNat = a := by simp [maskAddr]

/-- Reducing before the next address is taken changes nothing. -/
theorem maskAddr_succ (e : Nat) : maskAddr ((maskAddr e).toNat + 1) = maskAddr (e + 1) := by
  apply BitVec.eq_of_toNat_eq
  simp

theorem wordOfBytes_toNat (hi lo : Byte) : (wordOfBytes hi lo).toNat = hi.toNat * 256 + lo.toNat := by
  rw [wordOfBytes, BitVec.toNat_append, ← Nat.shiftLeft_add_eq_or_of_lt lo.isLt, Nat.shiftLeft_eq]

theorem wordOfBytes_extract (w : Word) : wordOfBytes (w.extractLsb' 8 8) (w.extractLsb' 0 8) = w := by
  apply BitVec.eq_of_toNat_eq
  have hw := w.isLt
  simp only [wordOfBytes_toNat, BitVec.extractLsb'_toNat, Nat.shiftRight_eq_div_pow]
  omega

/-- The 16 bits of a word are the word. -/
@[simp] theorem tableWord_of_toNat (w : Word) : tableWord 16 w.toNat = w := by
  rw [tableWord, Nat.mod_eq_of_lt w.isLt, BitVec.ofNat_toNat, BitVec.setWidth_eq]

/-! ## Stored blocks -/

variable {s t : State}

/-- A byte of a stored block reads back, the addresses wrapping or not (R33, R44). -/
theorem State.readByte_writeBytes_at (s : State) (e : Nat) {bs : List Byte} (hl : bs.length ≤ 4096) {k : Nat}
    (hk : k < bs.length) : (s.writeBytes e bs).readByte (maskAddr (e + k)) = bs[k] :=
  (s.readByte_writeBytes e bs hl _).1 k hk rfl

theorem State.writeBytes_pc (e : Nat) (bs : List Byte) : (s.writeBytes e bs).pc = s.pc := by
  rw [State.writeBytes_eq]

theorem State.writeBytes_fsm (e : Nat) (bs : List Byte) : (s.writeBytes e bs).fsm = s.fsm := by
  rw [State.writeBytes_eq]

theorem State.writeBytes_inbox (e : Nat) (bs : List Byte) : (s.writeBytes e bs).inbox = s.inbox := by
  rw [State.writeBytes_eq]

/-- A word stored at an address is the word there (R34). -/
theorem State.wordAt_writeBytes (a : Addr) (w : Word) :
    (s.writeBytes a.toNat (bytesOfWord w)).wordAt a = w := by
  have hlen : (bytesOfWord w).length ≤ 4096 := Nat.le_add_left 2 4094
  have hhi := s.readByte_writeBytes_at a.toNat hlen (k := 0) Nat.zero_lt_two
  have hlo := s.readByte_writeBytes_at a.toNat hlen (k := 1) Nat.one_lt_two
  rw [Nat.add_zero, maskAddr_of_toNat] at hhi
  rw [State.wordAt, hhi, hlo]
  exact wordOfBytes_extract w

theorem State.stepIndex_mem (x : Nibble) : (s.stepIndex x).mem = s.mem := by rw [State.stepIndex_eq]

theorem State.regsUpTo_getElem (s : State) (x : Nibble) {k : Nat} (hk : k < (s.regsUpTo x).length) :
    (s.regsUpTo x)[k] = s.reg (BitVec.ofNat 4 k) := by simp [State.regsUpTo]

/-- Fx55 leaves `V[k]` at `A(I + k)` (49_index_memory.md R106). -/
theorem readByte_of_exec_stRegs {x : Nibble} (h : exec (.stRegs x) s = .next t) {k : Nat} (hk : k ≤ x.toNat) :
    t.readByte (maskAddr (s.i.toNat + k)) = s.reg (BitVec.ofNat 4 k) := by
  have hlen : (s.regsUpTo x).length = x.toNat + 1 := s.regsUpTo_length x
  have hx := x.isLt
  cases h
  calc ((s.writeBytes s.i.toNat (s.regsUpTo x)).stepIndex x).advance.readByte (maskAddr (s.i.toNat + k))
    _ = (s.writeBytes s.i.toNat (s.regsUpTo x)).readByte (maskAddr (s.i.toNat + k)) :=
        State.readByte_congr (State.stepIndex_mem x) (State.stepIndex_cfg _ x) _
    _ = (s.regsUpTo x)[k] := s.readByte_writeBytes_at _ (by omega) (by omega)
    _ = s.reg (BitVec.ofNat 4 k) := s.regsUpTo_getElem x _

/-! ## Placing a word (log entry 8) -/

theorem State.readyToFetch_pc (s : State) : s.readyToFetch.pc = s.pc := by
  unfold State.readyToFetch; split <;> rfl

theorem State.readyToFetch_inbox (s : State) : s.readyToFetch.inbox = [] := by
  unfold State.readyToFetch; split <;> rfl

theorem State.readyToFetch_runs (s : State) : Runs s.readyToFetch := by
  unfold State.readyToFetch
  split
  · next hload => exact .inl hload
  · next hrun => exact .inr hrun
  · exact .inr rfl
  · exact .inr rfl

/-- The word placed stands at `pc` in a core that is ready to fetch. -/
theorem State.withFetchWord_eq (s : State) (w : Word) :
    s.withFetchWord 16 w.toNat = s.readyToFetch.writeBytes s.pc.toNat (bytesOfWord w) := by
  rw [State.withFetchWord, State.placeWord, tableWord_of_toNat]

theorem State.withFetchWord_pc (s : State) (w : Word) : (s.withFetchWord 16 w.toNat).pc = s.pc := by
  rw [State.withFetchWord_eq, State.writeBytes_pc, State.readyToFetch_pc]

end Sys2Proof.Machine
end

section
/-! The statements of 20_memory.md: the fetch, bytes stored where the fetch reads, and ROM loading. -/

namespace Sys2Proof.Machine

/-- Settles O43: both bytes are read back from the block, the second at `A(I + k + 1)`. -/
theorem storedBytesAreFetched : Obligations.StoredBytesAreFetched := by
  intro x s t k h hk
  have hhi := readByte_of_exec_stRegs h (Nat.le_of_lt hk)
  have hlo := readByte_of_exec_stRegs h (Nat.succ_le_of_lt hk)
  show (t.wordAt (maskAddr (s.i.toNat + k))).toNat = _
  rw [State.wordAt, maskAddr_succ, wordOfBytes_toNat, hhi, Nat.add_assoc, hlo]

/-- Settles O45, by the three cases of `load_rom`. -/
theorem loadRomCopiesOrRejects : Obligations.LoadRomCopiesOrRejects := by
  intro s data
  have hrun : runCommand (.loadRom data) s = .next (loadRom data s) := rfl
  rcases loadRom_cases s data with ⟨hf, h⟩ | ⟨hf, hl, h⟩ | ⟨hf, hl, h⟩ <;> rw [h] at hrun
  · exact ⟨fun _ => hrun, fun hload => absurd hload hf, fun hload => absurd hload hf⟩
  · exact ⟨fun hne => absurd hf hne, fun _ _ => ⟨_, hrun, rfl, rfl, s.takeFault_frame _ _ _⟩,
      fun _ hle => absurd hl (Nat.not_lt.2 hle)⟩
  · refine ⟨fun hne => absurd hf hne, fun _ hlt => absurd hlt (Nat.not_lt.2 hl), fun _ _ => ⟨_, hrun, ?_, ?_⟩⟩
    · exact fun k hk => s.readByte_writeBytes_at romBase (hl.trans (by decide)) hk
    · exact s.writeBytes_frame romBase data

/-- Settles O6: the word is two bytes, and an even `pc` is below 4095. -/
theorem fetchIsBigEndian : Obligations.FetchIsBigEndian := by
  refine fun s => ⟨wordOfBytes_toNat _ _, fun heven => ?_⟩
  have hpc := s.pc.isLt
  rw [BitVec.toNat_ofNat, Nat.mod_eq_of_lt (by omega)]

/-- Settles O46: the word is stored at `pc` in a core made ready to fetch, and storing it touches memory only. -/
theorem placedWordIsFetched : Obligations.PlacedWordIsFetched := by
  intro s w
  have hpc := s.withFetchWord_pc w
  refine ⟨?_, ?_, ?_, hpc⟩
  · rw [State.fetchWord, hpc, State.withFetchWord_eq, State.wordAt_writeBytes]
  · rw [State.withFetchWord_eq, Runs, State.writeBytes_fsm]
    exact s.readyToFetch_runs
  · rw [State.withFetchWord_eq, State.writeBytes_inbox, State.readyToFetch_inbox]

end Sys2Proof.Machine
end

section
/-! SUPPORT. The decoder against the encoder and the opcode map (30_encoding.md R50, R53, R54). -/

namespace Sys2Proof

variable {w : Word} {i : Instr}

/-! ## Encode, then decode -/

/-- The fields of a word `f x y n`, `f x nn` or `f nnn` are its parts, so the decoder meets the instruction's row. -/
theorem decode_encode (h : WellFormed i) : decode (encode i) = .ok i := by
  cases i with
  | cls | ret => rfl
  | sys nnn =>
    obtain ⟨hcls, hret⟩ : nnn ≠ 0x0E0#12 ∧ nnn ≠ 0x0EE#12 := by
      simpa [WellFormed, wellFormed, sysOperand] using h
    obtain ⟨hf, hnnn⟩ := fields_of_address 0x0#4 nnn
    simp [encode, decode, decode0, hf, hnnn, hcls, hret]
  | jp nnn | call nnn | ldI nnn | jpV0 nnn => simp [encode, decode, fields_of_address]
  | seImm x nn | sneImm x nn | ldImm x nn | addImm x nn | rnd x nn => simp [encode, decode, fields_of_byte]
  | seReg x y | sneReg x y => simp [encode, decode, fields_of_nibbles]
  | ldReg x y | orReg x y | andReg x y | xorReg x y | addReg x y | subReg x y | shr x y | subn x y | shl x y =>
    simp [encode, decode, decode8, fields_of_nibbles]
  | drw x y n => simp [encode, decode, fields_of_nibbles]
  | skp x | sknp x => simp [encode, decode, decodeE, fields_of_byte]
  | ldVxDt x | ldVxK x | ldDtVx x | ldStVx x | addI x | ldF x | ldB x | stRegs x | ldRegs x =>
    simp [encode, decode, decodeF, fields_of_byte]

/-! ## Decode, then encode -/

theorem encode_decode0 (nnn : Addr) : WellFormed (decode0 nnn) ∧ encode (decode0 nnn) = 0x0#4 ++ nnn := by
  unfold decode0
  split
  · next h => subst h; decide
  · split
    · next h => subst h; decide
    · next hcls hret => exact ⟨by simp [WellFormed, wellFormed, sysOperand, hcls, hret], rfl⟩

theorem encode_decode8 {x y n : Nibble} (h : decode8 x y n = .ok i) :
    WellFormed i ∧ encode i = 0x8#4 ++ x ++ y ++ n := by
  unfold decode8 at h
  split at h <;> cases h <;> next hn => exact ⟨rfl, by rw [(BitVec.toNat_eq_nat.1 hn).2]; rfl⟩

theorem encode_decodeE {x : Nibble} {nn : Byte} (h : decodeE x nn = .ok i) :
    WellFormed i ∧ encode i = 0xE#4 ++ x ++ nn := by
  unfold decodeE at h
  split at h <;> cases h <;> next hnn => exact ⟨rfl, by rw [(BitVec.toNat_eq_nat.1 hnn).2]; rfl⟩

theorem encode_decodeF {x : Nibble} {nn : Byte} (h : decodeF x nn = .ok i) :
    WellFormed i ∧ encode i = 0xF#4 ++ x ++ nn := by
  unfold decodeF at h
  split at h <;> cases h <;> next hnn => exact ⟨rfl, by rw [(BitVec.toNat_eq_nat.1 hnn).2]; rfl⟩

/-! A word of family `k` is `k` before its address, before `x nn`, and before `x y n`. -/

theorem address_of_family {k : Nat} (hk : (fieldFamily w).toNat = k) : BitVec.ofNat 4 k ++ fieldNnn w = w := by
  rw [← (BitVec.toNat_eq_nat.1 hk).2, word_of_address]

theorem byte_of_family {k : Nat} (hk : (fieldFamily w).toNat = k) :
    BitVec.ofNat 4 k ++ fieldX w ++ fieldNn w = w := by
  rw [← (BitVec.toNat_eq_nat.1 hk).2, word_of_byte]

theorem nibbles_of_family {k : Nat} (hk : (fieldFamily w).toNat = k) :
    BitVec.ofNat 4 k ++ fieldX w ++ fieldY w ++ fieldN w = w := by
  rw [← (BitVec.toNat_eq_nat.1 hk).2, word_of_nibbles]

/-- In each family the operands are the word's own fields, and the rest of the word is what the decoder matched. -/
theorem encode_decode (h : decode w = .ok i) : WellFormed i ∧ encode i = w := by
  unfold decode at h
  split at h <;> rename_i hk
  -- family 0
  case h_1 =>
    cases h
    obtain ⟨hwf, henc⟩ := encode_decode0 (fieldNnn w)
    exact ⟨hwf, henc.trans (address_of_family hk)⟩
  -- families 1, 2, A and B, with `nnn`
  case h_2 | h_3 | h_11 | h_12 => cases h; exact ⟨rfl, address_of_family hk⟩
  -- families 3, 4, 6, 7 and C, with `x` and `nn`
  case h_4 | h_5 | h_7 | h_8 | h_13 => cases h; exact ⟨rfl, byte_of_family hk⟩
  -- families 5 and 9, where `n` is 0
  case h_6 | h_10 =>
    split at h <;> cases h
    next hn =>
      have hw := nibbles_of_family hk
      rw [hn] at hw
      exact ⟨rfl, hw⟩
  -- families 8, D, E and F
  case h_9 =>
    obtain ⟨hwf, henc⟩ := encode_decode8 h
    exact ⟨hwf, henc.trans (nibbles_of_family hk)⟩
  case h_14 => cases h; exact ⟨rfl, nibbles_of_family hk⟩
  case h_15 =>
    obtain ⟨hwf, henc⟩ := encode_decodeE h
    exact ⟨hwf, henc.trans (byte_of_family hk)⟩
  case h_16 =>
    obtain ⟨hwf, henc⟩ := encode_decodeF h
    have hk : (fieldFamily w).toNat = 15 := by simp only [imp_false] at *; omega
    exact ⟨hwf, henc.trans (byte_of_family hk)⟩

/-! ## The words that do not decode (R53, R55) -/

/-- The words that do not decode, family by family, over the fields of R50. -/
abbrev IllegalWord (w : Word) : Prop :=
  (fieldFamily w = 0x5#4 ∧ fieldN w ≠ 0x0#4) ∨
    (fieldFamily w = 0x8#4 ∧ fieldN w ∈ [0x8#4, 0x9#4, 0xA#4, 0xB#4, 0xC#4, 0xD#4, 0xF#4]) ∨
    (fieldFamily w = 0x9#4 ∧ fieldN w ≠ 0x0#4) ∨
    (fieldFamily w = 0xE#4 ∧ fieldNn w ∉ [0x9E#8, 0xA1#8]) ∨
    (fieldFamily w = 0xF#4 ∧
      fieldNn w ∉ [0x07#8, 0x0A#8, 0x15#8, 0x18#8, 0x1E#8, 0x29#8, 0x33#8, 0x55#8, 0x65#8])

theorem decode8_error_iff {x y n : Nibble} :
    (∃ e, decode8 x y n = .error e) ↔ n ∈ [0x8#4, 0x9#4, 0xA#4, 0xB#4, 0xC#4, 0xD#4, 0xF#4] := by
  unfold decode8
  split
  case h_10 =>
    simp only [imp_false] at *
    simp only [List.mem_cons, List.not_mem_nil, or_false, BitVec.toNat_eq, BitVec.reduceToNat,
      Except.error.injEq, exists_eq', true_iff]
    omega
  all_goals simp [BitVec.toNat_eq, *]

theorem decodeE_error_iff {x : Nibble} {nn : Byte} :
    (∃ e, decodeE x nn = .error e) ↔ nn ∉ [0x9E#8, 0xA1#8] := by
  unfold decodeE
  split <;> simp_all [BitVec.toNat_eq]

theorem decodeF_error_iff {x : Nibble} {nn : Byte} :
    (∃ e, decodeF x nn = .error e) ↔
      nn ∉ [0x07#8, 0x0A#8, 0x15#8, 0x18#8, 0x1E#8, 0x29#8, 0x33#8, 0x55#8, 0x65#8] := by
  unfold decodeF
  split <;> simp_all [BitVec.toNat_eq]

theorem decode_error_iff : (∃ e, decode w = .error e) ↔ IllegalWord w := by
  unfold decode
  split <;> rename_i hk
  case h_16 =>
    have hk : (fieldFamily w).toNat = 15 := by simp only [imp_false] at *; omega
    simp [IllegalWord, (BitVec.toNat_eq_nat.1 hk).2, decodeF_error_iff]
  case h_6 | h_10 =>
    rw [IllegalWord, (BitVec.toNat_eq_nat.1 hk).2]
    split <;> simp [*]
  all_goals simp [IllegalWord, (BitVec.toNat_eq_nat.1 hk).2, decode8_error_iff, decodeE_error_iff]

end Sys2Proof
end

section
/-! SUPPORT. The rows of the opcode map (30_encoding.md R54): which of them a word lies in. -/

namespace Sys2Proof

variable {w : Word} {i : Instr} {r q : OpcodeRow}

/-- SYS's row of R54, the whole of family 0. -/
def sysRow : OpcodeRow := ⟨0x0000, 0xF000⟩

/-- The match of each row under the other's mask is the same: they agree on the bits both fix. -/
def OpcodeRow.agrees (r q : OpcodeRow) : Bool := r.pattern &&& q.mask == q.pattern &&& r.mask

theorem OpcodeRow.hits_iff : r.hits w = true ↔ w &&& r.mask = r.pattern := beq_iff_eq

/-- Rows with a word in common agree. -/
theorem OpcodeRow.agrees_of_hits (hr : r.hits w = true) (hq : q.hits w = true) : r.agrees q = true := by
  rw [hits_iff] at hr hq
  rw [agrees, ← hr, ← hq, BitVec.and_assoc, BitVec.and_assoc, BitVec.and_comm r.mask, beq_self_eq_true]

/-- No two of the legal rows agree, so no word lies in two of them. -/
theorem legalRow_unique (hr : r ∈ legalRows) (hq : q ∈ legalRows) (hrw : r.hits w = true) (hqw : q.hits w = true) :
    r = q := by
  have hall : ∀ r ∈ legalRows, ∀ q ∈ legalRows, r.agrees q = true → r = q := by decide
  exact hall r hr q hq (OpcodeRow.agrees_of_hits hrw hqw)

/-- The legal rows that meet SYS's are CLS's and RET's, of one word each. -/
theorem cls_or_ret_of_hits_sysRow (hr : r ∈ legalRows) (hrw : r.hits w = true) (hsys : sysRow.hits w = true) :
    w = 0x00E0#16 ∨ w = 0x00EE#16 := by
  have hall : ∀ r ∈ legalRows, r.agrees sysRow = true → r = opcodeRow .cls ∨ r = opcodeRow .ret := by decide
  have hfull : w &&& 0xFFFF#16 = w := BitVec.and_allOnes
  rw [OpcodeRow.hits_iff] at hrw
  rcases hall r hr (OpcodeRow.agrees_of_hits (OpcodeRow.hits_iff.2 hrw) hsys) with rfl | rfl
  · exact .inl (hfull.symm.trans hrw)
  · exact .inr (hfull.symm.trans hrw)

/-- Every instruction but SYS has a legal row. -/
theorem opcodeRow_legal_or_sys (i : Instr) : opcodeRow i ∈ legalRows ∨ ∃ nnn, i = .sys nnn := by
  cases i with
  | sys nnn => exact .inr ⟨nnn, rfl⟩
  | _ => exact .inl (by simp [opcodeRow, legalRows])

open Laws.EncodesItsRow in
/-- Every instruction's word lies in its row. -/
theorem opcodeRow_hits_encode : ∀ i : Instr, (opcodeRow i).hits (encode i) = true
  | .cls => cls | .ret => ret | .sys _ => sys _ | .jp _ => jp _ | .call _ => call _ | .seImm _ _ => seImm _ _
  | .sneImm _ _ => sneImm _ _ | .seReg _ _ => seReg _ _ | .ldImm _ _ => ldImm _ _ | .addImm _ _ => addImm _ _
  | .ldReg _ _ => ldReg _ _ | .orReg _ _ => orReg _ _ | .andReg _ _ => andReg _ _ | .xorReg _ _ => xorReg _ _
  | .addReg _ _ => addReg _ _ | .subReg _ _ => subReg _ _ | .shr _ _ => shr _ _ | .subn _ _ => subn _ _
  | .shl _ _ => shl _ _ | .sneReg _ _ => sneReg _ _ | .ldI _ => ldI _ | .jpV0 _ => jpV0 _ | .rnd _ _ => rnd _ _
  | .drw _ _ _ => drw _ _ _ | .skp _ => skp _ | .sknp _ => sknp _ | .ldVxDt _ => ldVxDt _ | .ldVxK _ => ldVxK _
  | .ldDtVx _ => ldDtVx _ | .ldStVx _ => ldStVx _ | .addI _ => addI _ | .ldF _ => ldF _ | .ldB _ => ldB _
  | .stRegs _ => stRegs _ | .ldRegs _ => ldRegs _

theorem opcodeRow_hits (h : decode w = .ok i) : (opcodeRow i).hits w = true :=
  (encode_decode h).2 ▸ opcodeRow_hits_encode i

/-! ## The words of a legal row decode -/

theorem fieldFamily_and (v w : Word) : fieldFamily (v &&& w) = fieldFamily v &&& fieldFamily w :=
  BitVec.extractLsb'_and

theorem fieldN_and (v w : Word) : fieldN (v &&& w) = fieldN v &&& fieldN w := BitVec.extractLsb'_and

theorem fieldNn_and (v w : Word) : fieldNn (v &&& w) = fieldNn v &&& fieldNn w := BitVec.extractLsb'_and

/-- A legal row fixes the family, and the field that is the sub-opcode in its family: its words have the pattern's. -/
theorem fields_of_hits_legalRow (hr : r ∈ legalRows) (hw : r.hits w = true) :
    fieldFamily w = fieldFamily r.pattern ∧
      (fieldFamily r.pattern ∈ [0x5#4, 0x8#4, 0x9#4] → fieldN w = fieldN r.pattern) ∧
      (fieldFamily r.pattern ∈ [0xE#4, 0xF#4] → fieldNn w = fieldNn r.pattern) := by
  have hmask : ∀ r ∈ legalRows, fieldFamily r.mask = BitVec.allOnes 4 ∧
      (fieldFamily r.pattern ∈ [0x5#4, 0x8#4, 0x9#4] → fieldN r.mask = BitVec.allOnes 4) ∧
      (fieldFamily r.pattern ∈ [0xE#4, 0xF#4] → fieldNn r.mask = BitVec.allOnes 8) := by decide
  obtain ⟨hf, hn, hnn⟩ := hmask r hr
  have hpat := OpcodeRow.hits_iff.1 hw
  refine ⟨?_, fun h => ?_, fun h => ?_⟩
  · rw [← hpat, fieldFamily_and, hf, BitVec.and_allOnes]
  · rw [← hpat, fieldN_and, hn h, BitVec.and_allOnes]
  · rw [← hpat, fieldNn_and, hnn h, BitVec.and_allOnes]

/-- A word of a legal row decodes: no row's pattern is illegal, and the row fixes the fields that decide it. -/
theorem not_illegalWord_of_hits (hr : r ∈ legalRows) (hw : r.hits w = true) : ¬ IllegalWord w := by
  have hall : ∀ r ∈ legalRows, ¬ IllegalWord r.pattern := by decide
  obtain ⟨hf, hn, hnn⟩ := fields_of_hits_legalRow hr hw
  refine fun h => hall r hr ?_
  rw [IllegalWord, hf] at h
  rcases h with ⟨hk, h⟩ | ⟨hk, h⟩ | ⟨hk, h⟩ | ⟨hk, h⟩ | ⟨hk, h⟩
  · exact .inl ⟨hk, hn (by simp [hk]) ▸ h⟩
  · exact .inr (.inl ⟨hk, hn (by simp [hk]) ▸ h⟩)
  · exact .inr (.inr (.inl ⟨hk, hn (by simp [hk]) ▸ h⟩))
  · exact .inr (.inr (.inr (.inl ⟨hk, hnn (by simp [hk]) ▸ h⟩)))
  · exact .inr (.inr (.inr (.inr ⟨hk, hnn (by simp [hk]) ▸ h⟩)))

/-- SYS's words lie in no legal row. -/
theorem not_hits_legalRow_of_sys {nnn : Addr} (h : decode w = .ok (.sys nnn)) (hr : r ∈ legalRows) :
    r.hits w = false := by
  refine Bool.eq_false_of_not_eq_true fun hw => ?_
  rcases cls_or_ret_of_hits_sysRow hr hw (opcodeRow_hits h) with rfl | rfl
  · cases h
  · cases h

theorem hits_no_legalRow_iff :
    (∀ r ∈ legalRows, r.hits w = false) ↔ (∃ e, decode w = .error e) ∨ ∃ nnn, decode w = .ok (.sys nnn) := by
  constructor
  · intro hnone
    cases hd : decode w with
    | error e => exact .inl ⟨e, rfl⟩
    | ok i =>
      rcases opcodeRow_legal_or_sys i with hlegal | ⟨nnn, rfl⟩
      · exact absurd (opcodeRow_hits hd) (by simp [hnone _ hlegal])
      · exact .inr ⟨nnn, rfl⟩
  · rintro (herr | ⟨nnn, hsys⟩) r hr
    · exact Bool.eq_false_of_not_eq_true fun hw => not_illegalWord_of_hits hr hw (decode_error_iff.1 herr)
    · exact not_hits_legalRow_of_sys hsys hr

end Sys2Proof
end

section
/-! SUPPORT. What a `cpu_step` leaves of `fsm` and the fault record (30_encoding.md R59, R60). -/

namespace Sys2Proof.Machine

variable {s t : State} {i : Instr}

/-! ## The cases of `cpu_step` -/

theorem cpuStep_of_not_runs (h : s.fsm = .halt ∨ s.fsm = .waitKey) (rnd : Byte) : cpuStep rnd s = .next s := by
  rcases h with h | h <;> simp only [cpuStep, h]

theorem eq_of_cpuStep_of_not_runs (h : s.fsm = .halt ∨ s.fsm = .waitKey) {rnd : Byte} (ht : cpuStep rnd s = .next t) :
    t = s := by
  rw [cpuStep_of_not_runs h] at ht
  cases ht
  rfl

theorem cpuStep_of_runs (h : Runs s) (rnd : Byte) : cpuStep rnd s = runWord s.fetchWord (s.beginStep rnd) := by
  rcases h with h | h <;> simp only [cpuStep, h]

theorem cpuStep_of_decode_ok (h : Runs s) (hd : decode s.fetchWord = .ok i) (rnd : Byte) :
    cpuStep rnd s = exec i (s.beginStep rnd) := by
  simp only [cpuStep_of_runs h, runWord, hd]

theorem cpuStep_of_decode_error (h : Runs s) {e : DecodeError} (hd : decode s.fetchWord = .error e) (rnd : Byte) :
    cpuStep rnd s = .next ((s.beginStep rnd).takeFault .illegalInstruction s.fetchWord s.pc) := by
  simp only [cpuStep_of_runs h, runWord, hd, State.beginStep_pc]

theorem stepStatus_eq (s : State) :
    stepStatus s = if s.fsm = .halt then .halted else if s.fsm = .waitKey then .waiting else .executed := by
  unfold stepStatus
  cases s.fsm <;> rfl

/-! ## What an instruction does to `fsm` and the fault record -/

/-- The faults an instruction can raise (60_exceptions.md R108). -/
@[simp] def raisable : Instr → List FaultKind
  | .ret => [.stackUnderflow]
  | .sys _ => [.illegalInstruction]
  | .jp _ | .jpV0 _ => [.misalignedPc]
  | .call _ => [.misalignedPc, .stackOverflow]
  | _ => []

/-- An instruction raises one of its faults, begins a key wait, or leaves `fsm` and the fault record alone. -/
theorem exec_fsm_cases (h : exec i s = .next t) :
    (∃ k ∈ raisable i, t = s.raise k i) ∨
      (∃ x, i = .ldVxK x ∧ t.fsm = .waitKey ∧ t.fault = s.fault) ∨
      ((∀ x, i ≠ .ldVxK x) ∧ t.fsm = s.fsm ∧ t.fault = s.fault) := by
  cases i with
  | sys => cases h; exact .inl ⟨_, by simp, rfl⟩
  | ret =>
    cases h
    split
    · exact .inl ⟨_, by simp, rfl⟩
    · exact .inr (.inr ⟨nofun, rfl, rfl⟩)
  | jp | jpV0 =>
    cases h
    split
    · exact .inl ⟨_, by simp, rfl⟩
    · exact .inr (.inr ⟨nofun, rfl, rfl⟩)
  | call =>
    cases h
    split
    · exact .inl ⟨.misalignedPc, by simp, rfl⟩
    · split
      · exact .inl ⟨.stackOverflow, by simp, rfl⟩
      · exact .inr (.inr ⟨nofun, rfl, rfl⟩)
  | ldVxK x => cases h; exact .inr (.inl ⟨x, rfl, rfl, rfl⟩)
  | _ => exact .inr (.inr ⟨nofun, exec_frame h .fsm (by simp), exec_frame h .fault (by simp)⟩)

theorem raisable_ne_none {k : FaultKind} (h : k ∈ raisable i) : k ≠ .none := by
  rintro rfl
  cases i <;> simp at h

theorem sys_of_raisable_illegalInstruction (h : .illegalInstruction ∈ raisable i) : ∃ nnn, i = .sys nnn := by
  cases i with
  | sys nnn => exact ⟨nnn, rfl⟩
  | _ => simp at h

/-! ## What a step leaves -/

/-- The record a fault in a step leaves holds the fetched word and its address (R109). -/
theorem raise_of_decode_ok (hd : decode s.fetchWord = .ok i) (k : FaultKind) (rnd : Byte) :
    (s.beginStep rnd).raise k i = (s.beginStep rnd).takeFault k s.fetchWord s.pc := by
  rw [State.raise, (encode_decode hd).2, State.beginStep_pc]

/-- A step that takes a fault changes the record, `fsm` and the model's own `rnd` and `draws` (log entry 2). -/
theorem takeFault_beginStep_frame (s : State) (rnd : Byte) (k : FaultKind) (w : Word) :
    OnlyChanges s ((s.beginStep rnd).takeFault k w s.pc) (These [.fault, .fsm, .rnd, .draws]) :=
  ((s.beginStep_frame rnd).of_these (by simp)).trans ((State.takeFault_frame _ _ _ _).of_these (by simp))

/-- What a running core's `cpu_step` leaves (R59): the fault of the fetched word, a key wait, or `RUN`. -/
theorem cpuStep_fsm_cases (hr : Runs s) {rnd : Byte} (h : cpuStep rnd s = .next t) :
    (∃ k ≠ .none, (∀ x, decode s.fetchWord ≠ .ok (.ldVxK x)) ∧
        t = (s.beginStep rnd).takeFault k s.fetchWord s.pc) ∨
      (∃ x, decode s.fetchWord = .ok (.ldVxK x) ∧ t.fsm = .waitKey ∧ t.fault = s.fault) ∨
      ((∀ x, decode s.fetchWord ≠ .ok (.ldVxK x)) ∧ t.fsm = .run ∧ t.fault = s.fault) := by
  cases hd : decode s.fetchWord with
  | error e =>
    rw [cpuStep_of_decode_error hr hd] at h
    cases h
    exact .inl ⟨_, by decide, nofun, rfl⟩
  | ok i =>
    rw [cpuStep_of_decode_ok hr hd] at h
    rcases exec_fsm_cases h with ⟨k, hk, rfl⟩ | ⟨x, rfl, hf, hfault⟩ | ⟨hi, hf, hfault⟩
    · refine .inl ⟨k, raisable_ne_none hk, ?_, raise_of_decode_ok hd k rnd⟩
      rintro x ⟨⟩
      simp at hk
    · exact .inr (.inl ⟨x, rfl, hf, hfault⟩)
    · exact .inr (.inr ⟨fun x hx => hi x (Except.ok.inj hx), hf, hfault⟩)

/-- On a word of no legal row, SYS's included, the step takes ILLEGAL_INSTRUCTION (R55, R60). -/
theorem cpuStep_of_no_legalRow (hr : Runs s) (hnone : ∀ r ∈ legalRows, r.hits s.fetchWord = false) (rnd : Byte) :
    cpuStep rnd s = .next ((s.beginStep rnd).takeFault .illegalInstruction s.fetchWord s.pc) := by
  rcases hits_no_legalRow_iff.1 hnone with ⟨e, hd⟩ | ⟨nnn, hd⟩
  · exact cpuStep_of_decode_error hr hd rnd
  · rw [cpuStep_of_decode_ok hr hd, ← raise_of_decode_ok hd]
    rfl

/-- Nothing else makes a step halt with that kind of fault: of the instructions only SYS raises it. -/
theorem no_legalRow_of_cpuStep (hr : Runs s) {rnd : Byte} (h : cpuStep rnd s = .next t)
    (hkind : t.fault.kind = .illegalInstruction) (hhalt : t.fsm = .halt) :
    ∀ r ∈ legalRows, r.hits s.fetchWord = false := by
  rw [hits_no_legalRow_iff]
  cases hd : decode s.fetchWord with
  | error e => exact .inl ⟨e, rfl⟩
  | ok i =>
    rw [cpuStep_of_decode_ok hr hd] at h
    rcases exec_fsm_cases h with ⟨k, hk, rfl⟩ | ⟨x, -, hf, -⟩ | ⟨-, hf, -⟩
    · obtain rfl : k = .illegalInstruction := hkind
      obtain ⟨nnn, rfl⟩ := sys_of_raisable_illegalInstruction hk
      exact .inr ⟨nnn, rfl⟩
    · simp [hf] at hhalt
    · simp [hf] at hhalt

/-! ## `fsm` after a command (R59) -/

theorem loadRom_fsm (hload : s.fsm = .load) (data : List Byte) :
    if data.length ≤ romMax then (loadRom data s).1.fsm = .load
    else (loadRom data s).1.fsm = .halt ∧ (loadRom data s).1.fault.kind = .loadError := by
  rcases loadRom_cases s data with ⟨hne, -⟩ | ⟨-, hlt, hc⟩ | ⟨-, hle, hc⟩
  · exact absurd hload hne
  · rw [if_neg (Nat.not_le.2 hlt), hc]
    exact ⟨rfl, rfl⟩
  · rw [if_pos hle, hc]
    exact (s.writeBytes_fsm romBase data).trans hload

theorem setKey_ends_wait {code : Nibble} (hwait : s.fsm = .waitKey) (hup : s.key code = false) :
    (setKey code true s).fsm = .run := by
  rcases setKey_cases s code true with ⟨-, -, -, hc⟩ | ⟨hn, -⟩
  · rw [hc]; rfl
  · exact absurd ⟨hwait, rfl, hup⟩ hn

/-- A command keeps `fsm` but for a running core's `cpu_step`, reset, a ROM in `LOAD`, and a key-down transition in a
wait. -/
theorem runCommand_fsm {c : Command} {r : Response} (h : runCommand c s = .next (t, r))
    (hstep : ∀ rnd, c = .cpuStep rnd → s.fsm = .halt ∨ s.fsm = .waitKey) (hreset : c ≠ .reset)
    (hrom : ∀ data, c = .loadRom data → s.fsm ≠ .load)
    (hkey : ∀ code, c = .setKey code true → s.fsm = .waitKey → s.key code = true) : t.fsm = s.fsm := by
  cases c with
  | reset => exact absurd rfl hreset
  | cpuStep rnd => rw [eq_of_cpuStep_of_not_runs (hstep rnd rfl) (cpuStep_of_runCommand h)]
  | loadRom data =>
    have hsame := loadRom_frame s data .fsm (fun hc => hrom data rfl hc.1)
    rwa [Host.Outcome.next.inj h] at hsame
  | setKey code down =>
    cases h
    rcases setKey_cases s code down with ⟨hwait, rfl, hup, -⟩ | ⟨-, hc⟩
    · simp [hkey code rfl hwait] at hup
    · rw [hc]; rfl
  | clockAdvance elapsed => cases h; rfl
  | timerTick => cases h; exact timerTick_frame s .fsm (by simp)
  | takeDirty | framebuffer | soundActive | status | dump => cases h; rfl

end Sys2Proof.Machine
end

section
/-! The statements of 30_encoding.md: the decoder, the opcode map, `cpu_step` and the transitions of `fsm`. -/

namespace Sys2Proof.Machine

/-- Settles O1, instruction by instruction, from the fields of a word put together from its parts. -/
theorem decodeOfEncodeIsTheInstruction : Obligations.DecodeOfEncodeIsTheInstruction := fun _ h => decode_encode h

/-- Settles O2, family by family: a word is its fields put together. -/
theorem encodeOfDecodeIsTheWord : Obligations.EncodeOfDecodeIsTheWord := fun _ _ h => encode_decode h

/-- Settles O3: rows with a word in common agree where both fix a bit, and no two legal rows do. -/
theorem decodedWordLiesInItsRowOnly : Obligations.DecodedWordLiesInItsRowOnly := by
  intro w i h
  refine ⟨opcodeRow_hits h, fun r hr hrw => ?_, ?_, ?_⟩
  · have hsys : ∀ nnn, i ≠ .sys nnn := by
      rintro nnn rfl
      simp [not_hits_legalRow_of_sys h hr] at hrw
    have hlegal := (opcodeRow_legal_or_sys i).resolve_right fun ⟨nnn, hi⟩ => hsys nnn hi
    exact ⟨hsys, legalRow_unique hr hlegal hrw (opcodeRow_hits h)⟩
  · rintro ⟨nnn, rfl⟩
    refine ⟨opcodeRow_hits h, ?_, ?_⟩
    · rintro rfl; cases h
    · rintro rfl; cases h
  · rintro ⟨hrow, hcls, hret⟩
    refine (opcodeRow_legal_or_sys i).resolve_left fun hlegal => ?_
    exact (cls_or_ret_of_hits_sysRow hlegal (opcodeRow_hits h) hrow).elim hcls hret

/-- Settles O4, family by family. -/
theorem illegalWordsByFamily : Obligations.IllegalWordsByFamily := fun _ => decode_error_iff

/-- Settles O9: only an undecoded word and SYS take this fault, and those are the words of no legal row. -/
theorem illegalWordHalts : Obligations.IllegalWordHalts := by
  intro s hinbox hr
  rw [step_of_inbox_nil hinbox]
  constructor
  · intro hnone
    exact ⟨_, cpuStep_of_no_legalRow hr hnone _, rfl, rfl, takeFault_beginStep_frame s _ _ _⟩
  · rintro ⟨t, h, hfault, hhalt, -⟩
    exact no_legalRow_of_cpuStep hr h (by rw [hfault]) hhalt

/-- Settles O56: `cpu_step` by what it leaves, the other commands one by one. -/
theorem fsmTransitions : Obligations.FsmTransitions := by
  intro c s t r h
  refine ⟨?_, ?_, ?_, ?_, ?_, ?_, ?_⟩
  · rintro rfl; cases h; rfl
  · rintro data rfl hload
    have hfsm := loadRom_fsm hload data
    rwa [Host.Outcome.next.inj h] at hfsm
  · rintro rnd rfl hr
    rcases cpuStep_fsm_cases hr (cpuStep_of_runCommand h) with ⟨k, hk, hd, rfl⟩ | ⟨x, hd, hf, -⟩ | ⟨hd, hf, hfault⟩
    · exact ⟨fun x hx => absurd hx (hd x), fun _ => .inr ⟨rfl, hk, rfl⟩⟩
    · exact ⟨fun _ _ => hf, fun hno => absurd hd (hno x)⟩
    · exact ⟨fun x hx => absurd hx (hd x), fun _ => .inl ⟨hf, hfault⟩⟩
  · rintro rnd rfl hwait
    exact eq_of_cpuStep_of_not_runs (.inr hwait) (cpuStep_of_runCommand h)
  · rintro code rfl hwait hup
    cases h
    exact setKey_ends_wait hwait hup
  · intro hhalt hreset
    rw [← hhalt]
    exact runCommand_fsm h (fun _ _ => .inl hhalt) hreset (by simp [hhalt]) (by simp [hhalt])
  · rintro (hwait | hstep) hreset hrom hkey
    · exact runCommand_fsm h (fun _ _ => .inr hwait) hreset hrom hkey
    · exact runCommand_fsm h (fun rnd hc => absurd hc (hstep rnd)) hreset hrom hkey

/-- Settles O5, by evaluation of the decoder. -/
theorem wordsOfTheMapDecode : Obligations.WordsOfTheMapDecode := by
  unfold Obligations.WordsOfTheMapDecode
  decide

/-- Settles O7: with an empty inbox a step is a `cpu_step` with the free draw. -/
theorem stepRunsTheDecodedInstruction : Obligations.StepRunsTheDecodedInstruction :=
  fun _ _ hinbox hr hd => (step_of_inbox_nil hinbox).trans (cpuStep_of_decode_ok hr hd _)

/-- Settles O8: the answer is the status of the state the instruction leaves. -/
theorem cpuStepRunsTheDecodedInstruction : Obligations.CpuStepRunsTheDecodedInstruction := by
  intro s t rnd i hr hd h
  rw [runCommand_cpuStep ((cpuStep_of_decode_ok hr hd rnd).trans h), stepStatus_eq]

/-- Settles O10, for `HALT` and `WAIT_KEY` alike. -/
theorem haltedOrWaitingStepChangesNothing : Obligations.HaltedOrWaitingStepChangesNothing := by
  intro s rnd
  refine ⟨fun hf => ⟨?_, fun hinbox => ?_⟩, fun hf => ⟨?_, fun hinbox => ?_⟩⟩
  · rw [runCommand_cpuStep (cpuStep_of_not_runs (.inl hf) rnd), stepStatus, hf]
  · rw [step_of_inbox_nil hinbox, cpuStep_of_not_runs (.inl hf)]
  · rw [runCommand_cpuStep (cpuStep_of_not_runs (.inr hf) rnd), stepStatus, hf]
  · rw [step_of_inbox_nil hinbox, cpuStep_of_not_runs (.inr hf)]

end Sys2Proof.Machine
end

section
/-! SUPPORT. The instructions that transfer control, branch by branch (40_control.md). -/

namespace Sys2Proof.Machine

variable {s t : State} {nnn : Addr}

theorem isOdd_iff {a : Addr} : isOdd a = true ↔ a.toNat % 2 = 1 := beq_iff_eq

/-- The converse of `not_isOdd`. -/
theorem not_isOdd_of_even {a : Addr} (heven : a.toNat % 2 = 0) : ¬ isOdd a = true := by
  simp [isOdd_iff, heven]

/-- `npc` is both where an instruction goes on and the return address CALL pushes (R61, R67). -/
@[simp] theorem State.npc_toNat (s : State) : s.npc.toNat = (s.pc.toNat + 2) % 4096 := maskAddr_toNat _

/-! ## RET (R65) -/

theorem exec_ret_of_sp_zero (hsp : s.sp = 0) : exec .ret s = .next (s.raise .stackUnderflow .ret) :=
  congrArg _ (if_pos hsp)

theorem exec_ret_of_sp_ne_zero (hsp : s.sp ≠ 0) : exec .ret s = .next (s.pop.setPc (s.stackAt (s.sp - 1))) :=
  congrArg _ (if_neg hsp)

theorem State.pop_setPc_frame (s : State) (a : Addr) : OnlyChanges s (s.pop.setPc a) (These [.sp, .pc]) :=
  (s.pop_frame.of_these (by simp)).trans ((State.setPc_frame _ _).of_these (by simp))

/-! ## JP (R66) -/

theorem exec_jp_of_odd (hodd : nnn.toNat % 2 = 1) : exec (.jp nnn) s = .next (s.raise .misalignedPc (.jp nnn)) :=
  congrArg _ (if_pos (isOdd_iff.2 hodd))

theorem exec_jp_of_even (heven : nnn.toNat % 2 = 0) : exec (.jp nnn) s = .next (s.setPc nnn) :=
  congrArg _ (if_neg (not_isOdd_of_even heven))

/-! ## CALL (R67, R112) -/

theorem exec_call_of_odd (hodd : nnn.toNat % 2 = 1) :
    exec (.call nnn) s = .next (s.raise .misalignedPc (.call nnn)) :=
  congrArg _ (if_pos (isOdd_iff.2 hodd))

theorem exec_call_of_full (heven : nnn.toNat % 2 = 0) (hfull : s.cfg.stackDepth ≤ s.sp) :
    exec (.call nnn) s = .next (s.raise .stackOverflow (.call nnn)) :=
  congrArg _ ((if_neg (not_isOdd_of_even heven)).trans (if_pos hfull))

theorem exec_call_of_room (heven : nnn.toNat % 2 = 0) (hroom : s.sp < s.cfg.stackDepth) :
    exec (.call nnn) s = .next ((s.push s.npc).setPc nnn) :=
  congrArg _ ((if_neg (not_isOdd_of_even heven)).trans (if_neg (Nat.not_le.2 hroom)))

theorem State.push_setPc_frame (s : State) (a b : Addr) :
    OnlyChanges s ((s.push a).setPc b) (These [.stackEntry s.sp, .sp, .pc]) :=
  ((s.push_frame a).of_these (by simp)).trans ((State.setPc_frame _ b).of_these (by simp))

/-- A frame may leave out a piece that has come back to what it was. -/
theorem OnlyChanges.drop {may may' : Piece → Prop} {p : Piece} (h : OnlyChanges s t may) (hp : SameAt s t p)
    (hm : ∀ q, may q → q = p ∨ may' q) : OnlyChanges s t may' := by
  intro q hq
  by_cases hqp : q = p
  · exact hqp ▸ hp
  · exact h q fun hmay => (hm q hmay).elim hqp hq

end Sys2Proof.Machine
end

section
/-! The statements of 40_control.md: CLS, RET, SYS, JP and CALL. -/

namespace Sys2Proof.Machine

/-- Settles O17, by the branches of CALL: an odd target, a full stack, and room for the return address. -/
theorem callPushesTheReturnAddress : Obligations.CallPushesTheReturnAddress := by
  refine fun nnn => ⟨decode_encode (i := .call nnn) rfl, fun s hshape _ => ⟨fun hodd => ?_, fun heven hfull => ?_,
    fun heven hroom => ?_⟩⟩
  · exact ⟨_, exec_call_of_odd hodd, s.raise_haltsWith _ _⟩
  · exact ⟨_, exec_call_of_full heven hfull.ge, s.raise_haltsWith _ _⟩
  · refine ⟨_, exec_call_of_room heven hroom, ?_, rfl, rfl, s.push_setPc_frame _ _⟩
    simp [s.stackAt_push s.npc (hshape ▸ hroom)]

/-- Settles O18: RET pops the entry CALL pushed, and `sp` is back at its old value. -/
theorem callThenRetReturns : Obligations.CallThenRetReturns := by
  intro nnn s hshape hroom heven
  have hcall := s.push_setPc_frame s.npc nnn
  refine ⟨_, _, exec_call_of_room heven hroom, exec_ret_of_sp_ne_zero (Nat.succ_ne_zero s.sp), ?_, rfl, ?_⟩
  · simp [s.stackAt_push s.npc (hshape ▸ hroom)]
  · exact (hcall.trans ((State.pop_setPc_frame _ _).of_these (by simp))).drop (p := .sp) rfl (by simp +contextual)

/-- Settles O14: CLS is a cleared framebuffer, which sets `dirty`, and the next `pc`. -/
theorem clsClearsTheDisplay : Obligations.ClsClearsTheDisplay :=
  ⟨rfl, fun s => ⟨_, rfl, Framebuffer.get_clear, rfl, s.npc_toNat, exec_frame (i := .cls) rfl⟩⟩

/-- Settles O15, by whether the stack is empty. -/
theorem retPopsTheStack : Obligations.RetPopsTheStack := by
  refine ⟨rfl, fun s => ⟨fun hsp => ?_, fun hsp => ?_⟩⟩
  · exact ⟨_, exec_ret_of_sp_zero hsp, s.raise_haltsWith _ _⟩
  · exact ⟨_, exec_ret_of_sp_ne_zero hsp, rfl, rfl, s.pop_setPc_frame _⟩

/-- Settles O16, by the parity of the target. -/
theorem jpGoesToItsTarget : Obligations.JpGoesToItsTarget := by
  refine fun nnn => ⟨decode_encode (i := .jp nnn) rfl, fun s => ⟨fun hodd => ?_, fun heven => ?_⟩⟩
  · exact ⟨_, exec_jp_of_odd hodd, s.raise_haltsWith _ _⟩
  · exact ⟨_, exec_jp_of_even heven, rfl, s.setPc_frame nnn⟩

/-- Settles O19: the two excluded operands are those that make SYS well-formed, and its meaning is `raise`. -/
theorem sysIsIllegal : Obligations.SysIsIllegal := by
  intro nnn hcls hret
  have hwf : WellFormed (.sys nnn) := by simp [WellFormed, wellFormed, sysOperand, hcls, hret]
  exact ⟨decode_encode (i := .sys nnn) hwf, fun s => ⟨_, rfl, s.raise_haltsWith _ _⟩⟩

end Sys2Proof.Machine
end

section
/-! SUPPORT. Where a skip goes, and the words of families 5 and 9 that do not decode (41_compare_skip.md). -/

namespace Sys2Proof.Machine

/-- `pc <- A(pc + 4)` or `pc <- npc`, by the condition (R69 to R72). -/
theorem State.skipIf_pc_toNat (s : State) (c : Bool) :
    (s.skipIf c).pc.toNat = (s.pc.toNat + if c then 4 else 2) % 4096 := by
  cases c with
  | true => exact maskAddr_toNat _
  | false => exact s.npc_toNat

variable {n : Nibble}

theorem decode_family5_error (hn : n ≠ 0x0#4) (x y : Nibble) : decode (0x5#4 ++ x ++ y ++ n) = .error .illegal5 := by
  simp [decode, fields_of_nibbles, hn]

theorem decode_family9_error (hn : n ≠ 0x0#4) (x y : Nibble) : decode (0x9#4 ++ x ++ y ++ n) = .error .illegal9 := by
  simp [decode, fields_of_nibbles, hn]

end Sys2Proof.Machine
end

section
/-! The statements of 41_compare_skip.md: the skips on a byte and on two registers. -/

namespace Sys2Proof.Machine

/-- Settles O21: each of the two is a skip, which changes `pc` alone. -/
theorem immediateSkips : Obligations.ImmediateSkips := by
  refine fun x nn => ⟨decode_encode (i := .seImm x nn) rfl, decode_encode (i := .sneImm x nn) rfl, fun s => ⟨?_, ?_⟩⟩
  · exact ⟨_, rfl, s.skipIf_frame _, by simp [State.skipIf_pc_toNat]⟩
  · exact ⟨_, rfl, s.skipIf_frame _, by simp [State.skipIf_pc_toNat]⟩

/-- Settles O22: as for a byte, and a low nibble that is not 0 has no row in either family. -/
theorem registerSkips : Obligations.RegisterSkips := by
  refine fun x y => ⟨decode_encode (i := .seReg x y) rfl, decode_encode (i := .sneReg x y) rfl,
    fun n hn => ⟨decode_family5_error hn x y, decode_family9_error hn x y⟩, fun s => ⟨?_, ?_⟩⟩
  · exact ⟨_, rfl, s.skipIf_frame _, by simp [State.skipIf_pc_toNat]⟩
  · exact ⟨_, rfl, s.skipIf_frame _, by simp [State.skipIf_pc_toNat]⟩

end Sys2Proof.Machine
end

section
/-! SUPPORT. A register after a write that goes on, and the sum ADD Vx, nn writes (42_load_add.md). -/

namespace Sys2Proof.Machine

theorem State.reg_setReg_advance_self (s : State) (r : Nibble) (b : Byte) : (s.setReg r b).advance.reg r = b :=
  (s.reg_setReg r r b).trans (if_pos rfl)

/-- `(V[x] + nn) % 256` (R74) is the sum of bytes. -/
theorem byteSum_mod (a b : Byte) : BitVec.ofNat 8 ((a.toNat + b.toNat) % 256) = a + b :=
  BitVec.eq_of_toNat_eq (by simp)

end Sys2Proof.Machine
end

section
/-! The statement of 42_load_add.md: LD Vx, nn and ADD Vx, nn. -/

namespace Sys2Proof.Machine

/-- Settles O23: each of the two writes `V[x]` and goes on, and by the frame of `exec` `VF` changes only as `V[x]`. -/
theorem loadAndAddImmediate : Obligations.LoadAndAddImmediate := by
  refine fun x nn => ⟨decode_encode (i := .ldImm x nn) rfl, decode_encode (i := .addImm x nn) rfl, fun s => ⟨?_, ?_⟩⟩
  · exact ⟨_, rfl, s.reg_setReg_advance_self x nn, s.npc_toNat, exec_frame (i := .ldImm x nn) rfl⟩
  · have hsum := (s.reg_setReg_advance_self x _).trans (byteSum_mod (s.reg x) nn)
    exact ⟨_, rfl, hsum, s.npc_toNat, exec_frame (i := .addImm x nn) rfl⟩

end Sys2Proof.Machine
end

section
/-! SUPPORT. The instructions of family 8 by what they write: one register, or a result and a flag (43_alu.md). -/

namespace Sys2Proof.Machine

variable {s : State} {x : Nibble} {i : Instr}

/-! ## One register (R77) -/

/-- An instruction that writes `V[x]` and goes on leaves everything else, `VF` too, as it was. -/
theorem exec_setReg_advance {b : Byte} (h : exec i s = .next (s.setReg x b).advance) :
    ∃ t, exec i s = .next t ∧ t.reg x = b ∧ t.pc.toNat = (s.pc.toNat + 2) % 4096 ∧
      OnlyChanges s t (These [.reg x, .pc]) :=
  ⟨_, h, s.reg_setReg_advance_self x b, s.npc_toNat, ((s.setReg_frame x b).of_these (by simp)).advance (by simp)⟩

/-! ## A result and a flag (R76) -/

theorem State.reg_writeFlagged_result (hx : x ≠ regF) (o : AluOut) : (s.writeFlagged x o).reg x = o.result :=
  (s.reg_writeFlagged x x o).trans ((if_neg hx).trans (if_pos rfl))

/-- `VF` ends as the flag unless it is the destination and its write lands last. -/
theorem State.reg_writeFlagged_flag (h : x ≠ regF ∨ s.cfg.flagOrder = .flagLast) (o : AluOut) :
    (s.writeFlagged x o).reg regF = flagByte o.flag := by
  have hflag : ¬ (x = regF ∧ s.cfg.flagOrder = .flagFirst) := by
    rintro ⟨hx, hfirst⟩
    have hlast := h.resolve_left (not_not.2 hx)
    exact absurd (hfirst.symm.trans hlast) (by decide)
  exact (s.reg_writeFlagged x regF o).trans ((if_pos rfl).trans (if_neg hflag))

theorem State.reg_writeFlagged_flagFirst (hx : x = regF) (hfirst : s.cfg.flagOrder = .flagFirst) (o : AluOut) :
    (s.writeFlagged x o).reg regF = o.result :=
  (s.reg_writeFlagged x regF o).trans ((if_pos rfl).trans (if_pos ⟨hx, hfirst⟩))

theorem State.writeFlagged_npc_toNat (s : State) (x : Nibble) (o : AluOut) :
    (s.writeFlagged x o).npc.toNat = (s.pc.toNat + 2) % 4096 := by
  rw [State.writeFlagged_eq]
  exact s.npc_toNat

/-- An instruction that writes the result `r` and the flag `f` in the order of `FLAG_ORDER` and goes on. -/
theorem exec_writeFlagged_advance {o : AluOut} {r f : Byte} (h : exec i s = .next (s.writeFlagged x o).advance)
    (hr : o.result = r) (hf : flagByte o.flag = f) :
    ∃ t, exec i s = .next t ∧ (x ≠ 15 → t.reg x = r) ∧
      (x ≠ 15 ∨ s.cfg.flagOrder = .flagLast → t.reg 15 = f) ∧
      (x = 15 → s.cfg.flagOrder = .flagFirst → t.reg 15 = r) ∧
      t.pc.toNat = (s.pc.toNat + 2) % 4096 ∧ OnlyChanges s t (These [.reg x, .reg 15, .pc]) := by
  subst hr hf
  exact ⟨_, h, fun hx => State.reg_writeFlagged_result hx o, fun hx => State.reg_writeFlagged_flag hx o,
    fun hx hfirst => State.reg_writeFlagged_flagFirst hx hfirst o, s.writeFlagged_npc_toNat x o,
    ((s.writeFlagged_frame x o).of_these (by simp)).advance (by simp)⟩

/-! ## The flags (R82 to R86) -/

theorem flagByte_aluAdd (a b : Byte) :
    flagByte (aluAdd a b).flag = if 255 < a.toNat + b.toNat then 1 else 0 := by
  simp [flagByte, aluAdd]

theorem flagByte_aluSub (a b : Byte) : flagByte (aluSub a b).flag = if b ≤ a then 1 else 0 := by
  simp [flagByte, aluSub, BitVec.le_def]

theorem flagByte_toNat (f : Bool) : (flagByte f).toNat = f.toNat := by
  cases f with
  | false => rfl
  | true => rfl

theorem flagByte_aluShr_toNat (v : Byte) : (flagByte (aluShr v).flag).toNat = v.toNat % 2 := by
  have hbit : (v.getLsbD 0).toNat = v.toNat / 1 % 2 := Nat.toNat_testBit v.toNat 0
  rw [flagByte_toNat]
  exact hbit.trans (by rw [Nat.div_one])

/-- Above bit 7 of a byte there is nothing, so the bit is the quotient. -/
theorem flagByte_aluShl_toNat (v : Byte) : (flagByte (aluShl v).flag).toNat = v.toNat / 128 := by
  have hbit : (v.getLsbD 7).toNat = v.toNat / 128 % 2 := Nat.toNat_testBit v.toNat 7
  have hlt := v.isLt
  rw [flagByte_toNat]
  exact hbit.trans (Nat.mod_eq_of_lt (by omega))

theorem State.shiftOperand_eq (s : State) (x y : Nibble) :
    s.shiftOperand x y = if s.cfg.shiftSource = .vx then s.reg x else s.reg y := by
  unfold State.shiftOperand
  cases s.cfg.shiftSource with
  | vx => rfl
  | vy => rfl

end Sys2Proof.Machine
end

section
/-! The statements of 43_alu.md: copy and logic, ADD, SUB and SUBN, SHR and SHL. -/

namespace Sys2Proof.Machine

/-- Settles O24: each of the four writes `V[x]` and goes on. -/
theorem copyAndLogicWriteNoFlag : Obligations.CopyAndLogicWriteNoFlag := by
  refine fun x y => ⟨decode_encode (i := .ldReg x y) rfl, decode_encode (i := .orReg x y) rfl,
    decode_encode (i := .andReg x y) rfl, decode_encode (i := .xorReg x y) rfl, fun s iv hiv => ?_⟩
  simp only [List.mem_cons, List.not_mem_nil, or_false] at hiv
  rcases hiv with rfl | rfl | rfl | rfl
  · exact exec_setReg_advance (i := .ldReg x y) rfl
  · exact exec_setReg_advance (i := .orReg x y) rfl
  · exact exec_setReg_advance (i := .andReg x y) rfl
  · exact exec_setReg_advance (i := .xorReg x y) rfl

/-- Settles O25: ADD writes the sum and the carry in the order of `FLAG_ORDER`. -/
theorem addSetsCarry : Obligations.AddSetsCarry :=
  fun x y => ⟨decode_encode (i := .addReg x y) rfl,
    fun _ => exec_writeFlagged_advance rfl (aluAdd_result _ _) (flagByte_aluAdd _ _)⟩

/-- Settles O26: SUB and SUBN write the difference and not-borrow, with the operands in the two orders. -/
theorem subtractsSetNotBorrow : Obligations.SubtractsSetNotBorrow := by
  refine fun x y => ⟨decode_encode (i := .subReg x y) rfl, decode_encode (i := .subn x y) rfl, fun s iab hiab => ?_⟩
  rcases List.mem_pair.1 hiab with rfl | rfl
  · exact exec_writeFlagged_advance (i := .subReg x y) rfl (aluSub_result _ _) (flagByte_aluSub _ _)
  · exact exec_writeFlagged_advance (i := .subn x y) rfl (aluSub_result _ _) (flagByte_aluSub _ _)

/-- Settles O27: both shift the same operand, so what they write is the two shifts of one byte. -/
theorem shiftsSetTheBitShiftedOut : Obligations.ShiftsSetTheBitShiftedOut := by
  refine fun x y => ⟨decode_encode (i := .shr x y) rfl, decode_encode (i := .shl x y) rfl,
    fun s v hv irf hirf => ?_⟩
  obtain rfl : v = s.shiftOperand x y := hv.trans (s.shiftOperand_eq x y).symm
  obtain ⟨o, hexec, hresult, hbit⟩ : ∃ o, exec irf.1 s = .next (s.writeFlagged x o).advance ∧
      o.result = irf.2.1 ∧ (flagByte o.flag).toNat = irf.2.2 := by
    rcases List.mem_pair.1 hirf with rfl | rfl
    · exact ⟨aluShr _, rfl, rfl, flagByte_aluShr_toNat _⟩
    · exact ⟨aluShl _, rfl, aluShl_result _, flagByte_aluShl_toNat _⟩
  obtain ⟨t, ht, hdest, hflag, hfirst⟩ := exec_writeFlagged_advance hexec hresult rfl
  exact ⟨t, ht, hdest, fun hx => (congrArg BitVec.toNat (hflag hx)).trans hbit, hfirst⟩

end Sys2Proof.Machine
end

section
/-! SUPPORT. The target of JP V0, nnn, and the two branches its parity decides (44_jump_add.md R87). -/

namespace Sys2Proof.Machine

variable {s : State} {nnn : Addr}

theorem State.jumpOffsetTarget_toNat (s : State) (nnn : Addr) :
    (s.jumpOffsetTarget nnn).toNat = (nnn.toNat + (s.reg 0).toNat) % 4096 := maskAddr_toNat _

/-- The address space is even in size, so wrapping around it keeps the parity of the sum. -/
theorem State.jumpOffsetTarget_parity (s : State) (nnn : Addr) :
    (s.jumpOffsetTarget nnn).toNat % 2 = (nnn.toNat + (s.reg 0).toNat) % 2 := by
  rw [State.jumpOffsetTarget_toNat]
  exact Nat.mod_mod_of_dvd _ (by decide)

theorem exec_jpV0_of_odd (hodd : (nnn.toNat + (s.reg 0).toNat) % 2 = 1) :
    exec (.jpV0 nnn) s = .next (s.raise .misalignedPc (.jpV0 nnn)) :=
  congrArg _ (if_pos (isOdd_iff.2 ((s.jumpOffsetTarget_parity nnn).trans hodd)))

theorem exec_jpV0_of_even (heven : (nnn.toNat + (s.reg 0).toNat) % 2 = 0) :
    exec (.jpV0 nnn) s = .next (s.setPc (s.jumpOffsetTarget nnn)) :=
  congrArg _ (if_neg (not_isOdd_of_even ((s.jumpOffsetTarget_parity nnn).trans heven)))

end Sys2Proof.Machine
end

section
/-! The statement of 44_jump_add.md: JP V0, nnn. -/

namespace Sys2Proof.Machine

/-- Settles O20, by the parity of the sum, which is that of the target. -/
theorem jpV0AddsV0 : Obligations.JpV0AddsV0 := by
  refine fun nnn => ⟨decode_encode (i := .jpV0 nnn) rfl, fun s => ⟨fun hodd => ?_, fun heven => ?_⟩⟩
  · exact ⟨_, exec_jpV0_of_odd hodd, s.raise_haltsWith _ _⟩
  · exact ⟨_, exec_jpV0_of_even heven, s.jumpOffsetTarget_toNat nnn, s.setPc_frame _⟩

end Sys2Proof.Machine
end

section
/-! The statement of 45_random.md: RND Vx, nn. -/

namespace Sys2Proof.Machine

/-- Settles O28: RND writes the masked draw and goes on, and the draw of a `cpu_step` is its argument. -/
theorem rndMasksTheDraw : Obligations.RndMasksTheDraw := by
  intro x nn
  have hdecode : decode (0xC#4 ++ x ++ nn) = .ok (.rnd x nn) := decode_encode (i := .rnd x nn) rfl
  have hexec (s : State) := exec_setReg_advance (s := s) (i := .rnd x nn) rfl
  refine ⟨hdecode, hexec, fun s rnd hr hw => ?_⟩
  obtain ⟨t, ht, hreg, -, hframe⟩ := hexec (s.beginStep rnd)
  have hfsm : t.fsm = .run := hframe .fsm (by simp)
  have hcmd := cpuStepRunsTheDecodedInstruction s t rnd (.rnd x nn) hr (hw ▸ hdecode) ht
  exact ⟨t, by simpa [hfsm] using hcmd, hreg⟩

end Sys2Proof.Machine
end

section
/-! SUPPORT. The pixels a sprite's 1-bits land on: which they are, and that none is drawn twice (46_draw.md R89 to
R91). -/

namespace Sys2Proof.Machine

variable {wrap : Bool} {ox py px px' py' : Nat} {p : Pixel} {b : Byte}

/-! ## Where a pixel lands -/

theorem placePixel_eq_some_iff : placePixel wrap px py = some p ↔ Lands wrap px py p := by
  obtain ⟨⟨row, hrow⟩, ⟨col, hcol⟩⟩ := p
  cases wrap with
  | true => simp [placePixel, Lands, Fin.ext_iff, eq_comm, and_comm]
  | false =>
    by_cases h : px < 64 ∧ py < 32
    · simp [placePixel, Lands, h, eq_comm, and_comm]
    · have hout : ¬ (col = px ∧ row = py) := by omega
      simp [placePixel, Lands, h, hout]

/-- A pixel names its column modulo 64 and its row modulo 32, whether sprites wrap or are clipped. -/
theorem Lands.mod (h : Lands wrap px py p) : px % 64 = p.2.val ∧ py % 32 = p.1.val := by
  cases wrap with
  | true => exact ⟨h.1.symm, h.2.symm⟩
  | false =>
    obtain ⟨hcol, hrow⟩ : p.2.val = px ∧ p.1.val = py := h
    exact ⟨hcol ▸ Nat.mod_eq_of_lt p.2.isLt, hrow ▸ Nat.mod_eq_of_lt p.1.isLt⟩

/-! ## One byte -/

theorem mem_rowPixels :
    p ∈ rowPixels wrap ox py b ↔ ∃ c < 8, b.getLsbD (7 - c) = true ∧ Lands wrap (ox + c) py p := by
  simp [rowPixels, Option.ite_none_right_eq_some, placePixel_eq_some_iff]

/-- The eight columns of a byte are distinct modulo 64. -/
theorem nodup_rowPixels : (rowPixels wrap ox py b).Nodup := by
  refine List.pairwise_filterMap.2 ((List.nodup_range (n := 8)).imp_of_mem ?_)
  intro c c' hc hc' hne p hp q hq hpq
  subst hpq
  simp only [Option.ite_none_right_eq_some, placePixel_eq_some_iff] at hp hq
  have hcol := hp.2.mod.1.trans hq.2.mod.1.symm
  rw [List.mem_range] at hc hc'
  omega

/-! ## The whole sprite -/

theorem mem_spritePixels {bs : List Byte} :
    p ∈ spritePixels wrap ox py bs ↔ ∃ r, ∃ h : r < bs.length, p ∈ rowPixels wrap ox (py + r) bs[r] := by
  induction bs generalizing py with
  | nil => simp [spritePixels]
  | cons b bs ih =>
    rw [← Nat.or_exists_add_one, spritePixels, List.mem_append, ih]
    simp [Nat.add_assoc, Nat.add_comm 1]

/-- At most 32 rows are distinct modulo 32. -/
theorem nodup_spritePixels {bs : List Byte} (hl : bs.length ≤ 32) : (spritePixels wrap ox py bs).Nodup := by
  induction bs generalizing py with
  | nil => exact List.nodup_nil
  | cons b bs ih =>
    rw [List.length_cons] at hl
    refine List.Nodup.append nodup_rowPixels (ih (by omega)) fun p hp hps => ?_
    obtain ⟨_, _, _, hfirst⟩ := mem_rowPixels.1 hp
    obtain ⟨r, hr, hps⟩ := mem_spritePixels.1 hps
    obtain ⟨_, _, _, hlater⟩ := mem_rowPixels.1 hps
    have hrow := hfirst.mod.2.trans hlater.mod.2.symm
    omega

/-! ## The pixels of `DRW` -/

variable {s : State} {x y n : Nibble}

theorem mem_drawList : p ∈ s.drawList x y n ↔ Draws s x y n p := by
  simp [State.drawList, Draws, mem_spritePixels, mem_rowPixels, State.readBytes, blockAddrs]

theorem nodup_drawList : (s.drawList x y n).Nodup :=
  nodup_spritePixels (by rw [State.readBytes_length]; omega)

end Sys2Proof.Machine
end

section
/-! SUPPORT. What DRW leaves: the display, the flag, and the pixels a repeated draw draws (46_draw.md R89, R92, R93). -/

namespace Sys2Proof.Machine

variable {s t u : State} {x y n : Nibble} {p : Pixel}

/-! ## One draw -/

theorem fb_of_exec_drw (h : exec (.drw x y n) s = .next t) : t.fb = (drawPixels s.fb (s.drawList x y n)).1 := by
  cases h; rfl

theorem regF_of_exec_drw (h : exec (.drw x y n) s = .next t) :
    t.reg 15 = flagByte (drawPixels s.fb (s.drawList x y n)).2 := by
  cases h; exact State.reg_setReg_advance_self _ _ _

theorem toggled_of_exec_drw (h : exec (.drw x y n) s = .next t) (hp : Draws s x y n p) :
    t.fb.get p = !s.fb.get p := by
  rw [fb_of_exec_drw h, (drawPixels_spec _ nodup_drawList _).1, if_pos (mem_drawList.2 hp)]

theorem kept_of_exec_drw (h : exec (.drw x y n) s = .next t) (hp : ¬ Draws s x y n p) :
    t.fb.get p = s.fb.get p := by
  rw [fb_of_exec_drw h, (drawPixels_spec _ nodup_drawList _).1, if_neg (mt mem_drawList.1 hp)]

theorem flagByte_eq_one_iff {f : Bool} : flagByte f = 1 ↔ f = true := by
  revert f; decide

theorem flagByte_eq_zero_iff {f : Bool} : flagByte f = 0 ↔ ¬ f = true := by
  revert f; decide

theorem drawPixels_collides_iff :
    (drawPixels s.fb (s.drawList x y n)).2 = true ↔ ∃ p, Draws s x y n p ∧ s.fb.get p = true :=
  (drawPixels_spec _ nodup_drawList _).2.trans (exists_congr fun _ => and_congr_left' mem_drawList)

theorem collides_iff_of_exec_drw (h : exec (.drw x y n) s = .next t) :
    t.reg 15 = 1 ↔ ∃ p, Draws s x y n p ∧ s.fb.get p = true := by
  rw [regF_of_exec_drw h, flagByte_eq_one_iff, drawPixels_collides_iff]

theorem not_collides_iff_of_exec_drw (h : exec (.drw x y n) s = .next t) :
    t.reg 15 = 0 ↔ ¬ ∃ p, Draws s x y n p ∧ s.fb.get p = true := by
  rw [regF_of_exec_drw h, flagByte_eq_zero_iff, drawPixels_collides_iff]

/-! ## Two draws in a row -/

/-- A draw whose coordinates are not in `VF` leaves its own operands as they were. -/
theorem drawList_of_exec_drw (hx : x ≠ 15) (hy : y ≠ 15) (h : exec (.drw x y n) s = .next t) :
    t.drawList x y n = s.drawList x y n := by
  have hframe := exec_frame h
  have hregx : t.reg x = s.reg x := hframe (.reg x) (by simpa using hx)
  have hregy : t.reg y = s.reg y := hframe (.reg y) (by simpa using hy)
  have hi : t.i = s.i := hframe .index (by simp)
  have hcfg : t.cfg = s.cfg := hframe .params (by simp)
  have hbyte : t.readByte = s.readByte := funext fun a => hframe (.byte a) (by simp)
  simp only [State.drawList, State.readBytes, hregx, hregy, hi, hcfg, hbyte]

theorem draws_iff_of_exec_drw (hx : x ≠ 15) (hy : y ≠ 15) (h : exec (.drw x y n) s = .next t) :
    Draws t x y n p ↔ Draws s x y n p := by
  rw [← mem_drawList, drawList_of_exec_drw hx hy h, mem_drawList]

theorem fb_of_exec_drw_twice (hx : x ≠ 15) (hy : y ≠ 15) (ht : exec (.drw x y n) s = .next t)
    (hu : exec (.drw x y n) t = .next u) : u.fb = s.fb := by
  refine Framebuffer.ext_get fun p => ?_
  have hdraws := draws_iff_of_exec_drw (p := p) hx hy ht
  by_cases hp : Draws s x y n p
  · rw [toggled_of_exec_drw hu (hdraws.2 hp), toggled_of_exec_drw ht hp, Bool.not_not]
  · rw [kept_of_exec_drw hu (mt hdraws.1 hp), kept_of_exec_drw ht hp]

theorem second_collides_iff_of_exec_drw (hx : x ≠ 15) (hy : y ≠ 15) (ht : exec (.drw x y n) s = .next t)
    (hu : exec (.drw x y n) t = .next u) : u.reg 15 = 1 ↔ ∃ p, Draws s x y n p ∧ s.fb.get p = false := by
  rw [collides_iff_of_exec_drw hu]
  refine exists_congr fun p => ?_
  rw [draws_iff_of_exec_drw hx hy ht]
  refine and_congr_right fun hp => ?_
  rw [toggled_of_exec_drw ht hp, Bool.not_eq_true']

/-- `VF`, `dirty` and `pc` alone: the pixels come back, and what DRW does not write is as it was. -/
theorem frame_of_exec_drw_twice (hx : x ≠ 15) (hy : y ≠ 15) (ht : exec (.drw x y n) s = .next t)
    (hu : exec (.drw x y n) t = .next u) : OnlyChanges s u (These [.reg 15, .dirty, .pc]) := by
  intro q hq
  have hframe : OnlyChanges s u (Writes s (.drw x y n)) := (exec_frame ht).trans (exec_frame hu)
  by_cases hpixel : ∃ p, q = .pixel p
  · obtain ⟨p, rfl⟩ := hpixel
    exact congrArg (·.get p) (fb_of_exec_drw_twice hx hy ht hu)
  · exact hframe q (not_or.2 ⟨hq, hpixel⟩)

end Sys2Proof.Machine
end

section
/-! The statements of 46_draw.md: one draw, two of the same sprite, and three. -/

namespace Sys2Proof.Machine

/-- Settles O30: the sprite's pixels are distinct, so each is toggled once, and the flag is a hit on one of them. -/
theorem drwTogglesTheSpritesPixels : Obligations.DrwTogglesTheSpritesPixels := by
  refine fun x y n => ⟨decode_encode (i := .drw x y n) rfl, fun s => ?_⟩
  obtain ⟨t, h⟩ := exec_next s (.drw x y n)
  have hdirty : t.dirty = true := by cases h; rfl
  have hpc : t.pc.toNat = (s.pc.toNat + 2) % 4096 := by cases h; exact s.npc_toNat
  exact ⟨t, h, fun _ => toggled_of_exec_drw h, fun _ => kept_of_exec_drw h, (collides_iff_of_exec_drw h).2,
    (not_collides_iff_of_exec_drw h).2, hdirty, hpc, exec_frame h⟩

/-- Settles O31: the second draw draws the same pixels, each toggled by the first. -/
theorem drawingTwiceRestoresTheDisplay : Obligations.DrawingTwiceRestoresTheDisplay := by
  intro x y n s hx hy
  obtain ⟨t, ht⟩ := exec_next s (.drw x y n)
  obtain ⟨u, hu⟩ := exec_next t (.drw x y n)
  exact ⟨t, u, ht, hu, fb_of_exec_drw_twice hx hy ht hu, collides_iff_of_exec_drw ht,
    second_collides_iff_of_exec_drw hx hy ht hu⟩

/-- Settles O32: two draws restore the display and the operands, so the third is the first again; the flags follow from
what the drawn pixels were. -/
theorem repeatedDrawsAlternate : Obligations.RepeatedDrawsAlternate := by
  intro x y n s hx hy
  obtain ⟨t, ht⟩ := exec_next s (.drw x y n)
  obtain ⟨u, hu⟩ := exec_next t (.drw x y n)
  obtain ⟨v, hv⟩ := exec_next u (.drw x y n)
  have hfb := fb_of_exec_drw_twice hx hy ht hu
  have hlist := (drawList_of_exec_drw hx hy hu).trans (drawList_of_exec_drw hx hy ht)
  have hfirst := collides_iff_of_exec_drw ht
  have hsecond := second_collides_iff_of_exec_drw hx hy ht hu
  refine ⟨t, u, v, ht, hu, hv, frame_of_exec_drw_twice hx hy ht hu, fb_of_exec_drw_twice hx hy hu hv,
    ?_, ?_, ?_, ?_⟩
  · rw [regF_of_exec_drw hv, regF_of_exec_drw ht, hfb, hlist]
  · rintro ⟨p, hp⟩ hclear
    refine ⟨(not_collides_iff_of_exec_drw ht).2 ?_, hsecond.2 ⟨p, hp, hclear p hp⟩⟩
    rintro ⟨q, hq, hset⟩
    exact Bool.noConfusion (hset.symm.trans (hclear q hq))
  · rintro ⟨p, hp⟩ hset
    refine ⟨hfirst.2 ⟨p, hp, hset p hp⟩, (not_collides_iff_of_exec_drw hu).2 ?_⟩
    rw [← collides_iff_of_exec_drw hu, hsecond]
    rintro ⟨q, hq, hclear⟩
    exact Bool.noConfusion (hclear.symm.trans (hset q hq))
  · rintro ⟨p, hp⟩
    cases hbit : s.fb.get p with
    | true => exact .inl (hfirst.2 ⟨p, hp, hbit⟩)
    | false => exact .inr (hsecond.2 ⟨p, hp, hbit⟩)

end Sys2Proof.Machine
end

section
/-! SUPPORT. The commands about keys and time, each said once: `set_key`, `timer_tick` and the streams of
`clock_advance` (60_exceptions.md R117, R119, R122). -/

namespace Sys2Proof.Machine

variable {s : State} {code : Nibble} {down : Bool}

/-! ## `set_key` -/

theorem State.setKeyBit_eq_self (h : s.key code = down) : s.setKeyBit code down = s := by
  subst h
  simp [State.setKeyBit, State.key]

/-- A key that already is as the command says: nothing changes, and no wait ends (R97, R98). -/
theorem setKey_eq_self (h : s.key code = down) : setKey code down s = s := by
  rcases setKey_cases s code down with ⟨-, hdown, hup, -⟩ | ⟨-, hc⟩
  · exact Bool.noConfusion (hup.symm.trans (h.trans hdown))
  · exact hc.trans (State.setKeyBit_eq_self h)

theorem key_setKey (s : State) (code : Nibble) (down : Bool) : (setKey code down s).key code = down := by
  have hbit (d : Bool) : (s.setKeyBit code d).key code = d := (s.key_setKeyBit code code d).trans (if_pos rfl)
  rcases setKey_cases s code down with ⟨-, rfl, -, hc⟩ | ⟨-, hc⟩ <;> rw [hc]
  · exact hbit true
  · exact hbit down

theorem State.reg_endWait_waitTarget (s : State) (code : Nibble) :
    ((s.endWait code).reg s.waitTarget).toNat = code.toNat := by
  have hreg : (s.endWait code).reg s.waitTarget = code.setWidth 8 := (s.reg_setReg _ _ _).trans (if_pos rfl)
  rw [hreg, BitVec.toNat_setWidth_of_le (by decide)]

/-! ## `timer_tick` -/

theorem countDown_toNat (b : Byte) : (countDown b).toNat = b.toNat - 1 := by
  have hb := b.isLt
  rw [countDown, BitVec.toNat_ofNat, Nat.mod_eq_of_lt (by omega)]

theorem timerTick_of_halt (h : s.fsm = .halt) : timerTick s = s := by
  rcases timerTick_cases s with ⟨-, hc⟩ | ⟨hne, -⟩
  · exact hc
  · exact absurd h hne

theorem timerTick_counts (h : s.fsm ≠ .halt) :
    (timerTick s).dt.toNat = s.dt.toNat - 1 ∧ (timerTick s).st.toNat = s.st.toNat - 1 := by
  rcases timerTick_cases s with ⟨hhalt, -⟩ | ⟨-, hc⟩
  · exact absurd hhalt h
  · rw [hc]
    exact ⟨countDown_toNat s.dt, countDown_toNat s.st⟩

theorem timerTick_fsm (s : State) : (timerTick s).fsm = s.fsm := timerTick_frame s .fsm (by simp)

/-! ## The streams of `clock_advance` -/

variable {q rate acc elapsed : Nat}

/-- No fraction is dropped: the ticks and the rest make up what came in (R119). -/
theorem streamTicks_mul_add_streamCarry :
    streamTicks q rate acc elapsed * q + streamCarry q rate acc elapsed = acc + elapsed * rate :=
  Nat.div_add_mod' _ _

theorem streamCarry_lt (hq : 0 < q) : streamCarry q rate acc elapsed < q := Nat.mod_lt _ hq

/-- In a key wait the CPU stream gives nothing and carries nothing, and the wait goes on (R97, R119). -/
theorem runCommand_clockAdvance_of_waitKey (h : s.fsm = .waitKey) (elapsed : Nat) :
    ∃ u m f, runCommand (.clockAdvance elapsed) s = .next (u, .ticks 0 m f) ∧ u.accCpu = 0 ∧ u.fsm = .waitKey := by
  have hrun : runCommand (.clockAdvance elapsed) s = .next (clockAdvance elapsed s) := rfl
  simp only [clockAdvance, if_pos h] at hrun
  exact ⟨_, _, _, hrun, rfl, h⟩

end Sys2Proof.Machine
end

section
/-! SUPPORT. The key a register names (47_input.md R96). -/

namespace Sys2Proof.Machine

theorem keyIndex_eq (v : Byte) : keyIndex v = BitVec.ofNat 4 (v.toNat % 16) := by
  have hmask (n : Nat) : n &&& 15 = n % 16 := Nat.and_two_pow_sub_one_eq_mod n 4
  apply BitVec.eq_of_toNat_eq
  simp [keyIndex, hmask]

end Sys2Proof.Machine
end

section
/-! The statements of 47_input.md: the key skips, the key wait and its end. -/

namespace Sys2Proof.Machine

/-- Settles O34: Fx0A sets the latch and goes on; the rest is what each command does in `WAIT_KEY`. -/
theorem ldVxKSetsTheLatch : Obligations.LdVxKSetsTheLatch := by
  refine fun x => ⟨decode_encode (i := .ldVxK x) rfl, fun s => ?_⟩
  obtain ⟨t, ht⟩ := exec_next s (.ldVxK x)
  obtain ⟨hwait, htarget, hpc⟩ : t.fsm = .waitKey ∧ t.waitTarget = x ∧ t.pc.toNat = (s.pc.toNat + 2) % 4096 := by
    cases ht
    exact ⟨rfl, rfl, s.npc_toNat⟩
  refine ⟨t, ht, hwait, htarget, hpc, exec_frame ht, ?_, runCommand_clockAdvance_of_waitKey hwait, ?_, ?_⟩
  · exact fun rnd => ((haltedOrWaitingStepChangesNothing t rnd).2 hwait).1
  · obtain ⟨hdt, hst⟩ := timerTick_counts (s := t) (by simp [hwait])
    exact ⟨_, rfl, hdt, hst, (timerTick_fsm t).trans hwait⟩
  · exact fun code hdown => ⟨_, rfl, (congrArg State.fsm (setKey_eq_self hdown)).trans hwait⟩

/-- Settles O35, by the two cases of `set_key`; the second call finds the key as it says. -/
theorem setKeyEndsTheWait : Obligations.SetKeyEndsTheWait := by
  intro s code down
  have hkey := key_setKey s code down
  have hagain : runCommand (.setKey code down) (setKey code down s) = .next (setKey code down s, .done) := by
    rw [runCommand, setKey_eq_self hkey]
  refine ⟨setKey code down s, rfl, hkey, hagain, ?_, ?_⟩
  · intro hends
    have hc : setKey code down s = (s.setKeyBit code down).endWait code := if_pos hends
    rw [hc]
    exact ⟨(s.setKeyBit code down).reg_endWait_waitTarget code, rfl,
      ((s.setKeyBit_frame code down).of_these (by simp)).trans ((State.endWait_frame _ code).of_these (by simp))⟩
  · intro hkeeps
    have hc : setKey code down s = s.setKeyBit code down := if_neg hkeeps
    rw [hc]
    exact s.setKeyBit_frame code down

/-- Settles O33: both are skips on the key that the low four bits of `V[x]` name. -/
theorem keySkips : Obligations.KeySkips := by
  refine fun x => ⟨decode_encode (i := .skp x) rfl, decode_encode (i := .sknp x) rfl, fun s => ⟨?_, ?_⟩⟩
  · exact ⟨_, rfl, s.skipIf_frame _, by rw [State.skipIf_pc_toNat, keyIndex_eq]⟩
  · exact ⟨_, rfl, s.skipIf_frame _, by
      simp only [State.skipIf_pc_toNat, keyIndex_eq, Bool.not_eq_true', ← Bool.not_eq_true, ite_not]⟩

end Sys2Proof.Machine
end

section
/-! The statement of 48_timers.md: the timer instructions. -/

namespace Sys2Proof.Machine

/-- Settles O36: each of the three writes one element and goes on. -/
theorem timerInstructions : Obligations.TimerInstructions := by
  refine fun x => ⟨decode_encode (i := .ldVxDt x) rfl, decode_encode (i := .ldDtVx x) rfl,
    decode_encode (i := .ldStVx x) rfl, fun s => ⟨?_, ?_, ?_⟩⟩
  · exact exec_setReg_advance (i := .ldVxDt x) rfl
  · exact ⟨_, rfl, rfl, s.npc_toNat, exec_frame (i := .ldDtVx x) rfl⟩
  · exact ⟨_, rfl, rfl, s.npc_toNat, exec_frame (i := .ldStVx x) rfl⟩

end Sys2Proof.Machine
end

section
/-! SUPPORT. What the instructions of 49_index_memory.md leave in `I`, in memory and in the registers. -/

namespace Sys2Proof.Machine

variable {s t : State} {x : Nibble}

/-! ## The index -/

theorem State.writeIndexFlag_eq (s : State) (f : Bool) :
    s.writeIndexFlag f = { s with regs := (s.writeIndexFlag f).regs } := by
  unfold State.writeIndexFlag
  split <;> rfl

theorem State.reg_writeIndexFlag (h : s.cfg.addIVf = true) (f : Bool) :
    (s.writeIndexFlag f).reg regF = flagByte f := by
  rw [State.writeIndexFlag, if_pos h]
  exact (s.reg_setReg regF regF _).trans (if_pos rfl)

theorem flagByte_indexCarry (i : Word) (v : Byte) :
    flagByte (indexCarry i v) = if 0xFFF < i.toNat + v.toNat then 1 else 0 := by
  simp [flagByte, indexCarry]

/-- Under `QUIRK_INCREMENT_I` the index moves past the block (R106, R107). -/
theorem State.stepIndex_i_toNat (h : s.cfg.incrementI = true) (x : Nibble) :
    (s.stepIndex x).i.toNat = (s.i.toNat + x.toNat + 1) % 4096 := by
  rw [State.stepIndex, if_pos h]
  exact maskIndex_toNat _

theorem State.stepIndex_pc (s : State) (x : Nibble) : (s.stepIndex x).pc = s.pc := by rw [State.stepIndex_eq]

theorem State.stepIndex_regs (s : State) (x : Nibble) : (s.stepIndex x).regs = s.regs := by rw [State.stepIndex_eq]

theorem State.writeBytes_i (s : State) (e : Nat) (bs : List Byte) : (s.writeBytes e bs).i = s.i := by
  rw [State.writeBytes_eq]

theorem State.setRegs_i (s : State) (k : Nat) (bs : List Byte) : (s.setRegs k bs).i = s.i := by
  rw [State.setRegs_eq]

theorem State.setRegs_pc (s : State) (k : Nat) (bs : List Byte) : (s.setRegs k bs).pc = s.pc := by
  rw [State.setRegs_eq]

/-- Where an instruction goes on to, whatever it wrote before, so long as it left `pc`. -/
theorem State.advance_pc_toNat (h : t.pc = s.pc) : t.advance.pc.toNat = (s.pc.toNat + 2) % 4096 :=
  h ▸ t.npc_toNat

/-! ## Blocks -/

theorem bcdDigits_toNat (v : Byte) :
    (bcdDigits v).map BitVec.toNat = [v.toNat / 100, v.toNat / 10 % 10, v.toNat % 10] := by
  have hv := v.isLt
  simp only [bcdDigits, List.map_cons, List.map_nil, BitVec.toNat_ofNat, List.cons.injEq, and_true]
  omega

/-- Fx33 leaves the `k`-th decimal digit of `V[x]` at `A(I + k)` (R105). -/
theorem readByte_of_exec_ldB (h : exec (.ldB x) s = .next t) {k : Nat} (hk : k < 3) :
    (t.readByte (maskAddr (s.i.toNat + k))).toNat =
      [(s.reg x).toNat / 100, (s.reg x).toNat / 10 % 10, (s.reg x).toNat % 10][k] := by
  have hlen : (bcdDigits (s.reg x)).length = 3 := rfl
  cases h
  calc ((s.writeBytes s.i.toNat (bcdDigits (s.reg x))).readByte (maskAddr (s.i.toNat + k))).toNat
    _ = ((bcdDigits (s.reg x))[k]).toNat :=
        congrArg BitVec.toNat (s.readByte_writeBytes_at s.i.toNat (hlen.trans_le (by decide)) hk)
    _ = ((bcdDigits (s.reg x)).map BitVec.toNat)[k] := (List.getElem_map _).symm
    _ = [(s.reg x).toNat / 100, (s.reg x).toNat / 10 % 10, (s.reg x).toNat % 10][k] := by
        simp only [bcdDigits_toNat]

theorem State.readBytes_getElem (s : State) (e n : Nat) {k : Nat} (hk : k < (s.readBytes e n).length) :
    (s.readBytes e n)[k] = s.readByte (maskAddr (e + k)) := by
  simp [State.readBytes, blockAddrs]

/-- Fx65 leaves the byte at `A(I + r)` in `V[r]` (R107). -/
theorem reg_of_exec_ldRegs (h : exec (.ldRegs x) s = .next t) {r : Nibble} (hr : r.toNat ≤ x.toNat) :
    t.reg r = s.readByte (maskAddr (s.i.toNat + r.toNat)) := by
  have hlen := s.readBytes_length s.i.toNat (x.toNat + 1)
  have hx := x.isLt
  cases h
  calc ((s.setRegs 0 (s.readBytes s.i.toNat (x.toNat + 1))).stepIndex x).advance.reg r
    _ = (s.setRegs 0 (s.readBytes s.i.toNat (x.toNat + 1))).reg r := State.reg_congr (State.stepIndex_regs _ x) r
    _ = (s.readBytes s.i.toNat (x.toNat + 1))[r.toNat] := by
        rw [State.reg_setRegs _ _ _ (by omega), dif_pos (by omega)]
        rfl
    _ = s.readByte (maskAddr (s.i.toNat + r.toNat)) := s.readBytes_getElem _ _ _

end Sys2Proof.Machine
end

section
/-! The statements of 49_index_memory.md: the index register, the decimal digits and the register blocks. -/

namespace Sys2Proof.Machine

/-- Settles O38: the sum and the flag are those of the old `I` and `V[x]`. -/
theorem addIMasksTheSum : Obligations.AddIMasksTheSum := by
  refine fun x => ⟨decode_encode (i := .addI x) rfl, fun s => ⟨_, rfl, ?_, fun hquirk => ?_, ?_, ?_⟩⟩
  · rw [State.writeIndexFlag_eq]
    exact maskIndex_toNat _
  · exact (State.reg_writeIndexFlag (s := s.setI _) hquirk _).trans (flagByte_indexCarry _ _)
  · exact State.advance_pc_toNat (by rw [State.writeIndexFlag_eq, State.setI_pc])
  · exact exec_frame (i := .addI x) rfl

/-- Settles O39: the three digits are a stored block, each read back at its place. -/
theorem ldBStoresTheDigits : Obligations.LdBStoresTheDigits := by
  refine fun x => ⟨decode_encode (i := .ldB x) rfl, fun s => ⟨_, rfl, ?_, ?_, ?_,
    State.advance_pc_toNat (State.writeBytes_pc _ _), exec_frame (i := .ldB x) rfl⟩⟩
  · exact readByte_of_exec_ldB rfl (k := 0) (by decide)
  · exact readByte_of_exec_ldB rfl (k := 1) (by decide)
  · exact readByte_of_exec_ldB rfl (k := 2) (by decide)

/-- Settles O40: a stored block of registers, then the index and `pc`. -/
theorem storeRegistersFillsTheBlock : Obligations.StoreRegistersFillsTheBlock := by
  refine fun x => ⟨decode_encode (i := .stRegs x) rfl, fun s => ⟨_, rfl, fun k hk => ?_, fun hquirk => ?_, ?_, ?_⟩⟩
  · exact readByte_of_exec_stRegs rfl hk
  · have hi := State.stepIndex_i_toNat (s := s.writeBytes s.i.toNat (s.regsUpTo x)) (by simpa using hquirk) x
    rwa [State.writeBytes_i] at hi
  · exact State.advance_pc_toNat ((State.stepIndex_pc _ x).trans (State.writeBytes_pc _ _))
  · exact exec_frame (i := .stRegs x) rfl

/-- Settles O41: a loaded block of registers, then the index and `pc`. -/
theorem loadRegistersReadsTheBlock : Obligations.LoadRegistersReadsTheBlock := by
  refine fun x => ⟨decode_encode (i := .ldRegs x) rfl, fun s => ⟨_, rfl, fun k hk => ?_, fun hquirk => ?_, ?_, ?_⟩⟩
  · have hx := x.isLt
    have hk' : (BitVec.ofNat 4 k).toNat = k := by simp; omega
    have hreg := reg_of_exec_ldRegs (s := s) (x := x) rfl (r := BitVec.ofNat 4 k) (by omega)
    rwa [hk'] at hreg
  · have hi := State.stepIndex_i_toNat (s := s.setRegs 0 (s.readBytes s.i.toNat (blockLength x)))
      (by simpa using hquirk) x
    rwa [State.setRegs_i] at hi
  · exact State.advance_pc_toNat ((State.stepIndex_pc _ x).trans (State.setRegs_pc _ _ _))
  · exact exec_frame (i := .ldRegs x) rfl

/-- Settles O42: the byte Fx65 reads into `V[r]` is the one Fx55 stored from it. -/
theorem storeThenLoadRestoresRegisters : Obligations.StoreThenLoadRestoresRegisters := by
  intro x s t v pc hstore
  obtain ⟨u, hload⟩ := exec_next { t with regs := v, i := s.i, pc := pc } (.ldRegs x)
  refine ⟨u, hload, fun r hr => ?_⟩
  calc u.reg r
    _ = t.readByte (maskAddr (s.i.toNat + r.toNat)) := reg_of_exec_ldRegs hload hr
    _ = s.reg (BitVec.ofNat 4 r.toNat) := readByte_of_exec_stRegs hstore hr
    _ = s.reg r := by rw [BitVec.ofNat_toNat, BitVec.setWidth_eq]

/-- Settles O37: each of the two writes `I` and goes on; `nnn` is below 4096 already. -/
theorem indexLoads : Obligations.IndexLoads := by
  refine ⟨fun nnn => ⟨decode_encode (i := .ldI nnn) rfl, fun s => ?_⟩,
    fun x => ⟨decode_encode (i := .ldF x) rfl, fun s => ?_⟩⟩
  · exact ⟨_, rfl, (maskIndex_toNat _).trans (Nat.mod_eq_of_lt nnn.isLt), s.npc_toNat, exec_frame (i := .ldI nnn) rfl⟩
  · exact ⟨_, rfl, maskIndex_toNat _, s.npc_toNat, exec_frame (i := .ldF x) rfl⟩

end Sys2Proof.Machine
end

section
/-! SUPPORT. The faults a `cpu_step` can take (60_exceptions.md R108, R109), timer ticks waiting in the inbox, and the
ticks of a run of `clock_advance` commands (R120). -/

namespace Sys2Proof.Machine

variable {s t : State}

/-! ## Faults -/

/-- The kinds an instruction raises (R108). -/
abbrev instructionFaults : List FaultKind := [.illegalInstruction, .stackOverflow, .stackUnderflow, .misalignedPc]

theorem raisable_subset (i : Instr) : raisable i ⊆ instructionFaults := by
  cases i <;> simp [instructionFaults]

/-- A running core's step that leaves `HALT` has taken a fault of the fetched word, and done nothing else. -/
theorem takeFault_of_cpuStep_halts (hr : Runs s) {rnd : Byte} (h : cpuStep rnd s = .next t) (hhalt : t.fsm = .halt) :
    ∃ k ∈ instructionFaults, t = (s.beginStep rnd).takeFault k s.fetchWord s.pc := by
  cases hd : decode s.fetchWord with
  | error e =>
    rw [cpuStep_of_decode_error hr hd] at h
    cases h
    exact ⟨.illegalInstruction, by simp, rfl⟩
  | ok i =>
    rw [cpuStep_of_decode_ok hr hd] at h
    rcases exec_fsm_cases h with ⟨k, hk, rfl⟩ | ⟨x, -, hf, -⟩ | ⟨-, hf, -⟩
    · exact ⟨k, raisable_subset i hk, raise_of_decode_ok hd k rnd⟩
    · simp [hf] at hhalt
    · simp [hf] at hhalt

/-! ## Ticks in the inbox -/

theorem run_succ_of_step {M : Host.Core} {a b : M.State} (h : M.step a = .next b) (n : Nat) :
    M.run (n + 1) a = M.run n b := by
  rw [Host.Core.run, h]

/-- Outside `HALT` a step that takes a waiting `timer_tick` counts both timers down and leaves the rest of the inbox. -/
theorem step_timerTick (hf : s.fsm ≠ .halt) {rest : List Command} (h : s.inbox = .timerTick :: rest) :
    ∃ u, step s = .next u ∧ u.dt.toNat = s.dt.toNat - 1 ∧ u.st.toNat = s.st.toNat - 1 ∧ u.inbox = rest ∧
      OnlyChanges s u (These [.delay, .sound, .inbox]) := by
  have htick := timerTick_frame { s with inbox := rest }
  obtain ⟨hdt, hst⟩ := timerTick_counts (s := { s with inbox := rest }) hf
  have hinbox : OnlyChanges s { s with inbox := rest } (These [.delay, .sound, .inbox]) := by
    intro p hp
    cases p with
    | inbox => simp at hp
    | _ => rfl
  exact ⟨_, step_of_inbox_cons h rfl, hdt, hst, htick .inbox (by simp), hinbox.trans (htick.of_these (by simp))⟩

/-! ## A run of `clock_advance` commands -/

/-- The ticks one stream gives over the calls, from what it carries. -/
def streamTotal (q rate : Nat) : Nat → List Nat → Nat
  | _, [] => 0
  | acc, e :: es => streamTicks q rate acc e + streamTotal q rate (streamCarry q rate acc e) es

/-- Calls in a row consume what one call with the whole time consumes. -/
theorem streamTotal_eq {q rate acc : Nat} (hacc : acc < q) (es : List Nat) :
    streamTotal q rate acc es = (acc + rate * es.sum) / q := by
  have hq : 0 < q := Nat.zero_lt_of_lt hacc
  induction es generalizing acc with
  | nil => simp [streamTotal, Nat.div_eq_of_lt hacc]
  | cons e es ih =>
    have hsplit := streamTicks_mul_add_streamCarry (q := q) (rate := rate) (acc := acc) (elapsed := e)
    calc streamTotal q rate acc (e :: es)
      _ = streamTicks q rate acc e + (streamCarry q rate acc e + rate * es.sum) / q := by
          rw [streamTotal, ih (streamCarry_lt hq)]
      _ = (streamTicks q rate acc e * q + (streamCarry q rate acc e + rate * es.sum)) / q :=
          by rw [Nat.mul_comm _ q, Nat.mul_add_div hq]
      _ = (acc + rate * (e :: es).sum) / q := by
          rw [← Nat.add_assoc, hsplit, List.sum_cons, Nat.mul_add, Nat.mul_comm e, Nat.add_assoc]

theorem streamTotal_of_acc_zero {q : Nat} (hq : 0 < q) (rate : Nat) (es : List Nat) :
    streamTotal q rate 0 es = rate * es.sum / q := by
  rw [streamTotal_eq hq, Nat.zero_add]

/-- The totals of the calls are those of the three streams, the CPU stream drained in a key wait. -/
theorem tickTotals_eq (s : State) (es : List Nat) :
    tickTotals s es = some (if s.fsm = .waitKey then 0 else streamTotal s.cfg.timeQ s.cfg.cpuHz s.accCpu es,
      streamTotal s.cfg.timeQ timerHz s.accTimer es, streamTotal s.cfg.timeQ s.cfg.frameHz s.accFrame es) := by
  induction es generalizing s with
  | nil => simp [tickTotals, streamTotal]
  | cons e es ih =>
    simp only [tickTotals, runCommand, clockAdvance, ih, streamTotal, Option.map_some]
    by_cases hwait : s.fsm = .waitKey <;> simp [hwait]

end Sys2Proof.Machine
end

section
/-! The statements of 60_exceptions.md: precise faults, `HALT`, the timers and the clock, and the queries. -/

namespace Sys2Proof.Machine

/-- Settles O13: a step that halts is a step begun and a fault taken, with nothing between. -/
theorem faultsArePrecise : Obligations.FaultsArePrecise := by
  intro s t rnd r hr hrun hhalt
  have hstep := cpuStep_of_runCommand hrun
  have hanswer : r = .stepped (stepStatus t) := by
    rw [runCommand_cpuStep hstep] at hrun
    cases hrun
    rfl
  obtain ⟨k, hk, rfl⟩ := takeFault_of_cpuStep_halts hr hstep hhalt
  exact ⟨hanswer, hk, rfl, rfl, takeFault_beginStep_frame s rnd k _⟩

/-- Settles O48, by induction on the number of ticks that wait. -/
theorem timerTicksCountDownTogether : Obligations.TimerTicksCountDownTogether := by
  intro n
  induction n with
  | zero => exact fun s rest _ hinbox => ⟨s, rfl, rfl, rfl, hinbox, OnlyChanges.refl s _⟩
  | succ n ih =>
    intro s rest hf hinbox
    obtain ⟨u, hstep, hdt, hst, hrest, hframe⟩ := step_timerTick hf hinbox
    have hfu : u.fsm ≠ .halt := (hframe .fsm (by simp)).symm ▸ hf
    obtain ⟨t, hrun, hdt', hst', hrest', hframe'⟩ := ih u rest hfu hrest
    exact ⟨t, (run_succ_of_step (M := Sys2Proof.core) hstep n).trans hrun, by omega, by omega, hrest',
      hframe.trans hframe'⟩

/-- Settles O49: each stream divides what it has by `TIME_Q`, the CPU stream by whether the core is in a key wait. -/
theorem clockAdvanceCountsTicks : Obligations.ClockAdvanceCountsTicks := by
  intro s e hq
  refine ⟨_, _, _, _, rfl, fun hwait => ⟨if_pos hwait, if_pos hwait⟩, fun hwait => ?_,
    streamTicks_mul_add_streamCarry, streamCarry_lt hq, streamTicks_mul_add_streamCarry, streamCarry_lt hq,
    clockAdvance_frame s e⟩
  simp only [if_neg hwait]
  exact ⟨streamTicks_mul_add_streamCarry, streamCarry_lt hq⟩

/-- Settles O50: each total is one stream's, and from an empty accumulator that is the exact quotient. -/
theorem clockTotalsIgnoreThePartition : Obligations.ClockTotalsIgnoreThePartition := by
  intro s es hq
  have htimer (hacc : s.accTimer = 0) : streamTotal s.cfg.timeQ timerHz s.accTimer es = 60 * es.sum / s.cfg.timeQ :=
    hacc ▸ streamTotal_of_acc_zero hq timerHz es
  refine ⟨_, _, _, tickTotals_eq s es, fun hwait hacc => ?_, htimer, fun hacc => ?_, fun hacc hsum => ?_⟩
  · rw [if_neg hwait, hacc, streamTotal_of_acc_zero hq]
  · rw [hacc, streamTotal_of_acc_zero hq]
  · rw [htimer hacc, hsum, Nat.mul_div_cancel _ hq]

/-- Settles O57, command by command: each one's frame, where being in `HALT` leaves `load_rom`, `cpu_step` and
`timer_tick` with nothing to change. -/
theorem haltKeepsTheStateUntilReset : Obligations.HaltKeepsTheStateUntilReset := by
  intro c s t r hhalt hreset h
  cases c with
  | reset => exact absurd rfl hreset
  | loadRom data =>
    have hframe := loadRom_frame s data
    rw [Host.Outcome.next.inj h] at hframe
    refine hframe.mono fun p hp => ?_
    simp [hhalt] at hp
  | setKey code down =>
    cases h
    refine (setKey_frame s code down).mono ?_
    rintro p (rfl | ⟨hwait, -⟩)
    · exact .inr ⟨code, rfl⟩
    · simp [hhalt] at hwait
  | clockAdvance elapsed => cases h; exact (clockAdvance_frame s elapsed).of_these (by simp)
  | cpuStep rnd =>
    rw [eq_of_cpuStep_of_not_runs (.inl hhalt) (cpuStep_of_runCommand h)]
    exact OnlyChanges.refl s _
  | timerTick => cases h; rw [timerTick_of_halt hhalt]; exact OnlyChanges.refl s _
  | takeDirty => cases h; exact (takeDirty_frame s).of_these (by simp)
  | framebuffer | soundActive | status | dump => cases h; exact OnlyChanges.refl s _

/-- Settles O47, by whether the core is in `HALT`. -/
theorem timerTickCountsDown : Obligations.TimerTickCountsDown :=
  fun s => ⟨_, rfl, timerTick_of_halt, timerTick_counts, timerTick_frame s⟩

/-- Settles O51: a query answers from the state and leaves it; the dump's memory is read byte by byte. -/
theorem queriesAndTakeDirty : Obligations.QueriesAndTakeDirty := by
  intro s
  refine ⟨rfl, ⟨_, rfl, ?_⟩, rfl, ⟨_, rfl, rfl, rfl, rfl, rfl, rfl, rfl, rfl, s.toDump_mem, rfl, rfl, rfl, rfl, rfl, rfl,
    rfl, rfl, rfl⟩, ⟨_, rfl, rfl, takeDirty_frame s⟩⟩
  simp [soundActive]

end Sys2Proof.Machine
end
